-- ==== Sys2Proof/Word.lean ====
section
/-! DEFINITION. The widths of the machine's values (00_scope.md R4, R7). All quantities are unsigned. -/

namespace Sys2Proof

/-- One byte: a V register, a timer, a memory byte (10_state.md R10, R17, R22). -/
abbrev Byte := BitVec 8

/-- Sixteen bits: an opcode, the index register, a stack entry (R61, R15, R21). -/
abbrev Word := BitVec 16

/-- A 12-bit byte address: the program counter and the field NNN (R12, R62). -/
abbrev Addr := BitVec 12

/-- The index of a V register: the fields X and Y (R10, R62). -/
abbrev RegIdx := Fin 16

/-- VF, the flag register (R11). -/
abbrev VF : RegIdx := 15

end Sys2Proof
end

