-- ==== Sys2Proof/Syntax.lean ====
section
/-! DEFINITION. The instructions: one constructor per row of spec/opcode_table.json, in its order (30_encoding.md R66),
the catch-all row UNKNOWN included (R68). Operands are the operand fields of the row's format (R65). -/

namespace Sys2Proof

/-- An instruction, decoded. X and Y are register indices, `nn` an 8-bit constant, `nnn` a 12-bit address or constant,
`n` a 4-bit row count (R62, R63). -/
inductive Instr where
  | cls                                       -- 00E0
  | ret                                       -- 00EE
  | jpAddr (nnn : Addr)                       -- 1NNN
  | callAddr (nnn : Addr)                     -- 2NNN
  | seVxNN (x : RegIdx) (nn : Byte)           -- 3XNN
  | sneVxNN (x : RegIdx) (nn : Byte)          -- 4XNN
  | seVxVy (x y : RegIdx)                     -- 5XY0
  | ldVxNN (x : RegIdx) (nn : Byte)           -- 6XNN
  | addVxNN (x : RegIdx) (nn : Byte)          -- 7XNN
  | ldVxVy (x y : RegIdx)                     -- 8XY0
  | orVxVy (x y : RegIdx)                     -- 8XY1
  | andVxVy (x y : RegIdx)                    -- 8XY2
  | xorVxVy (x y : RegIdx)                    -- 8XY3
  | addVxVy (x y : RegIdx)                    -- 8XY4
  | subVxVy (x y : RegIdx)                    -- 8XY5
  | shrVx (x y : RegIdx)                      -- 8XY6, Y decoded and never read
  | subnVxVy (x y : RegIdx)                   -- 8XY7
  | shlVx (x y : RegIdx)                      -- 8XYE, Y decoded and never read
  | sneVxVy (x y : RegIdx)                    -- 9XY0
  | ldIAddr (nnn : Addr)                      -- ANNN
  | jpV0Addr (nnn : Addr)                     -- BNNN
  | rndVxNN (x : RegIdx) (nn : Byte)          -- CXNN
  | drwVxVyN (x y : RegIdx) (n : Fin 16)      -- DXYN
  | skpVx (x : RegIdx)                        -- EX9E
  | sknpVx (x : RegIdx)                       -- EXA1
  | ldVxDT (x : RegIdx)                       -- FX07
  | ldVxK (x : RegIdx)                        -- FX0A
  | ldDTVx (x : RegIdx)                       -- FX15
  | ldSTVx (x : RegIdx)                       -- FX18
  | addIVx (x : RegIdx)                       -- FX1E
  | ldFVx (x : RegIdx)                        -- FX29
  | ldBVx (x : RegIdx)                        -- FX33
  | ldMemVx (x : RegIdx)                      -- FX55, LD [I],Vx
  | ldVxMem (x : RegIdx)                      -- FX65, LD Vx,[I]
  | unknown (op : Word)                       -- any word whose key is not in the opcode map
  deriving DecidableEq, Repr

end Sys2Proof
end

