-- ==== Sys2Proof/Decode.lean ====
section
/-! DEFINITION. Fields, dispatch key, opcode map, decoder and encoder (30_encoding.md R61 to R69). The decoder is total:
every 16-bit word is an instruction or an unknown opcode (R68); only a byte list shorter than one word is rejected. -/

namespace Sys2Proof

/-- The class of an opcode, op[15:12] (R62). -/
def opClass (op : Word) : BitVec 4 := op.extractLsb' 12 4

/-- The field X, op[11:8] (R62). -/
def opX (op : Word) : RegIdx := (op.extractLsb' 8 4).toFin

/-- The field Y, op[7:4] (R62). -/
def opY (op : Word) : RegIdx := (op.extractLsb' 4 4).toFin

/-- The field N, op[3:0] (R62). -/
def opN (op : Word) : Fin 16 := (op.extractLsb' 0 4).toFin

/-- The field NN, op[7:0] (R62). -/
def opNN (op : Word) : Byte := op.extractLsb' 0 8

/-- The field NNN, op[11:0] (R62). -/
def opNNN (op : Word) : Addr := op.extractLsb' 0 12

/-- The mask of a class (R64). That op[11:8] of a class-0 word is not compared is the spec's decision D12
(DESIGN CHOICE, unsafe, log entry 14). -/
def classMask (c : BitVec 4) : Word :=
  if c = 0x0 ∨ c = 0xE ∨ c = 0xF then 0xF0FF
  else if c = 0x8 then 0xF00F
  else 0xF000

/-- The dispatch key, `op & mask(class)` (R64). -/
def dispatchKey (op : Word) : Word := op &&& classMask (opClass op)

/-- The opcode map: each key with the instruction its words stand for (R66). -/
def opMap : List (Word × (Word → Instr)) :=
  [(0x00E0, fun _ => .cls),
   (0x00EE, fun _ => .ret),
   (0x1000, fun op => .jpAddr (opNNN op)),
   (0x2000, fun op => .callAddr (opNNN op)),
   (0x3000, fun op => .seVxNN (opX op) (opNN op)),
   (0x4000, fun op => .sneVxNN (opX op) (opNN op)),
   (0x5000, fun op => .seVxVy (opX op) (opY op)),
   (0x6000, fun op => .ldVxNN (opX op) (opNN op)),
   (0x7000, fun op => .addVxNN (opX op) (opNN op)),
   (0x8000, fun op => .ldVxVy (opX op) (opY op)),
   (0x8001, fun op => .orVxVy (opX op) (opY op)),
   (0x8002, fun op => .andVxVy (opX op) (opY op)),
   (0x8003, fun op => .xorVxVy (opX op) (opY op)),
   (0x8004, fun op => .addVxVy (opX op) (opY op)),
   (0x8005, fun op => .subVxVy (opX op) (opY op)),
   (0x8006, fun op => .shrVx (opX op) (opY op)),
   (0x8007, fun op => .subnVxVy (opX op) (opY op)),
   (0x800E, fun op => .shlVx (opX op) (opY op)),
   (0x9000, fun op => .sneVxVy (opX op) (opY op)),
   (0xA000, fun op => .ldIAddr (opNNN op)),
   (0xB000, fun op => .jpV0Addr (opNNN op)),
   (0xC000, fun op => .rndVxNN (opX op) (opNN op)),
   (0xD000, fun op => .drwVxVyN (opX op) (opY op) (opN op)),
   (0xE09E, fun op => .skpVx (opX op)),
   (0xE0A1, fun op => .sknpVx (opX op)),
   (0xF007, fun op => .ldVxDT (opX op)),
   (0xF00A, fun op => .ldVxK (opX op)),
   (0xF015, fun op => .ldDTVx (opX op)),
   (0xF018, fun op => .ldSTVx (opX op)),
   (0xF01E, fun op => .addIVx (opX op)),
   (0xF029, fun op => .ldFVx (opX op)),
   (0xF033, fun op => .ldBVx (opX op)),
   (0xF055, fun op => .ldMemVx (opX op)),
   (0xF065, fun op => .ldVxMem (opX op))]

/-- The 34 keys of the map (R66). -/
def opKeys : List Word := opMap.map Prod.fst

/-- The instruction a 16-bit word stands for: the row whose key is the word's, else an unknown opcode (R66, R68). -/
def decodeWord (op : Word) : Instr :=
  match opMap.find? (fun row => row.1 == dispatchKey op) with
  | some row => row.2 op
  | none => .unknown op

/-- Why a byte list is not decoded. -/
inductive DecodeError where
  /-- Fewer than two bytes are left. Never met by a fetch, which always reads two bytes (R45); safe. -/
  | truncated
  deriving DecidableEq, Repr

/-- Decodes the first instruction of a byte list, big-endian (R45, R61), and answers the bytes after it. -/
def decode : List Byte → Except DecodeError (Instr × List Byte)
  | hi :: lo :: rest => .ok (decodeWord (hi ++ lo), rest)
  | _ => .error .truncated

/-- Whether the bits the key and the format ignore are zero: op[11:8] of CLS and RET, op[3:0] of classes 5 and 9
(R65, R67; U9). Any Y of SHR and SHL is canonical. -/
def canonical (op : Word) : Bool :=
  match decodeWord op with
  | .cls | .ret => opX op == 0
  | .seVxVy _ _ | .sneVxVy _ _ => opN op == 0
  | _ => true

/-- A register index or row count as a 4-bit field. -/
def nibble (x : Fin 16) : BitVec 4 := BitVec.ofFin x

/-- Format A, cNNN (R65). -/
def encA (c : BitVec 4) (nnn : Addr) : Word := c ++ nnn

/-- Format XK, cXNN (R65); with a function byte for NN also format XF, cXff. -/
def encXK (c : BitVec 4) (x : RegIdx) (nn : Byte) : Word := c ++ nibble x ++ nn

/-- Formats XY, XYF and XYN: c, X, Y and a last nibble (R65). -/
def encXYN (c : BitVec 4) (x y : RegIdx) (n : BitVec 4) : Word := c ++ nibble x ++ nibble y ++ n

/-- The canonical word of an instruction, from the patterns of R66 (ignored bits 0, R67). -/
def encode : Instr → Word
  | .cls => 0x00E0
  | .ret => 0x00EE
  | .jpAddr nnn => encA 0x1 nnn
  | .callAddr nnn => encA 0x2 nnn
  | .seVxNN x nn => encXK 0x3 x nn
  | .sneVxNN x nn => encXK 0x4 x nn
  | .seVxVy x y => encXYN 0x5 x y 0x0
  | .ldVxNN x nn => encXK 0x6 x nn
  | .addVxNN x nn => encXK 0x7 x nn
  | .ldVxVy x y => encXYN 0x8 x y 0x0
  | .orVxVy x y => encXYN 0x8 x y 0x1
  | .andVxVy x y => encXYN 0x8 x y 0x2
  | .xorVxVy x y => encXYN 0x8 x y 0x3
  | .addVxVy x y => encXYN 0x8 x y 0x4
  | .subVxVy x y => encXYN 0x8 x y 0x5
  | .shrVx x y => encXYN 0x8 x y 0x6
  | .subnVxVy x y => encXYN 0x8 x y 0x7
  | .shlVx x y => encXYN 0x8 x y 0xE
  | .sneVxVy x y => encXYN 0x9 x y 0x0
  | .ldIAddr nnn => encA 0xA nnn
  | .jpV0Addr nnn => encA 0xB nnn
  | .rndVxNN x nn => encXK 0xC x nn
  | .drwVxVyN x y n => encXYN 0xD x y (nibble n)
  | .skpVx x => encXK 0xE x 0x9E
  | .sknpVx x => encXK 0xE x 0xA1
  | .ldVxDT x => encXK 0xF x 0x07
  | .ldVxK x => encXK 0xF x 0x0A
  | .ldDTVx x => encXK 0xF x 0x15
  | .ldSTVx x => encXK 0xF x 0x18
  | .addIVx x => encXK 0xF x 0x1E
  | .ldFVx x => encXK 0xF x 0x29
  | .ldBVx x => encXK 0xF x 0x33
  | .ldMemVx x => encXK 0xF x 0x55
  | .ldVxMem x => encXK 0xF x 0x65
  | .unknown op => op

/-- The two bytes of a word as memory holds them: the high byte at the lower address (R45). -/
def wordBytes (op : Word) : List Byte := [op.extractLsb' 8 8, op.extractLsb' 0 8]

/-- The bytes of an instruction, in memory order. -/
def encodeBytes (i : Instr) : List Byte := wordBytes (encode i)

/-- The instruction the decoder reads from bits numbered as spec/opcode_table.json numbers them: one 16-bit word,
every bit above `nbits` zero. -/
def decodeTableWord (nbits w : Nat) : Option Instr :=
  match decode (wordBytes (BitVec.ofNat 16 (w % 2 ^ nbits))) with
  | .ok (i, _) => some i
  | .error _ => none

end Sys2Proof
end

