-- ==== Sys2Proof/Config.lean ====
section
/-! DEFINITION. What is fixed for one machine: the parameters of 00_scope.md R6 (TIMER_MODE, FONT and the seven
strictness switches), and the one free value of the spec, the random byte. The defaults are in
Sys2Proof/Machine/Defaults.lean. -/

namespace Sys2Proof

/-- TIMER_MODE (00_scope.md R6, 60_exceptions.md R171). -/
inductive TimerMode where
  | perCycle  -- the timer tick is the last part of every cycle
  | separate  -- the tick is a host operation of its own
  deriving DecidableEq, Repr

/-- ADDR_OVERRUN (R6; 93_implementation_defined.md U2): a byte address above 0xFFF. -/
inductive AddrOverrun where
  | wrap
  | fault
  deriving DecidableEq, Repr

/-- DRW_OFFSCREEN (R6; U3): a set sprite bit outside the 64 x 32 screen. -/
inductive DrwOffscreen where
  | clip
  | fault
  deriving DecidableEq, Repr

/-- KEY_INDEX (R6; U4): a key number above 15 in SKP and SKNP. -/
inductive KeyIndex where
  | low4
  | fault
  deriving DecidableEq, Repr

/-- PC_OVERRUN (R6; U5): a program counter past 0xFFF. -/
inductive PcOverrun where
  | wrap
  | fault
  deriving DecidableEq, Repr

/-- VF_ALIAS (R6; U6): VF as an operand of a flag-writing arithmetic instruction. -/
inductive VfAlias where
  | literal
  | refuse
  deriving DecidableEq, Repr

/-- DRW_VF_COORD (R6; U7): VF as a coordinate of DRW. -/
inductive DrwVfCoord where
  | readFirst
  | refuse
  deriving DecidableEq, Repr

/-- NONCANONICAL (R6; U9): a word whose ignored bits are not zero. -/
inductive NonCanonical where
  | decode
  | refuse
  deriving DecidableEq, Repr

/-- The parameters the model takes as arguments (00_scope.md R6), fixed for the machine; a cycle never changes them.
DESIGN CHOICE, safe: they are carried in a field of State (log entry 1). -/
structure Config where
  timerMode    : TimerMode
  font         : Vector Byte 80
  addrOverrun  : AddrOverrun
  drwOffscreen : DrwOffscreen
  keyIndex     : KeyIndex
  pcOverrun    : PcOverrun
  vfAlias      : VfAlias
  drwVfCoord   : DrwVfCoord
  nonCanonical : NonCanonical
  deriving DecidableEq, Repr

/-- The random byte of each cycle (10_state.md R26; 92_eei_decisions.md D17): any value, under no law. A FREE VALUE:
it has no body, so nothing can be proved of its bytes; the argument is the number of the draw (log entry 2). -/
opaque Config.rnd : Nat → Byte

end Sys2Proof
end

