-- ==== Sys2Proof/Machine/Defaults.lean ====
section
/-! DEFINITION. The defaults of the machine's parameters (00_scope.md R6) and the reset values the source leaves open
(10_state.md R29, decision D14). They stand here and not in State.lean so that one place holds every chosen number. -/

namespace Sys2Proof.Machine

/-- One glyph of the font: five rows of eight pixels, as DRW reads them (10_state.md R23). -/
def glyph (d : Nat) : List Byte :=
  match d with
  | 0x0 => [0xF0, 0x90, 0x90, 0x90, 0xF0]
  | 0x1 => [0x20, 0x60, 0x20, 0x20, 0x70]
  | 0x2 => [0xF0, 0x10, 0xF0, 0x80, 0xF0]
  | 0x3 => [0xF0, 0x10, 0xF0, 0x10, 0xF0]
  | 0x4 => [0x90, 0x90, 0xF0, 0x10, 0x10]
  | 0x5 => [0xF0, 0x80, 0xF0, 0x10, 0xF0]
  | 0x6 => [0xF0, 0x80, 0xF0, 0x90, 0xF0]
  | 0x7 => [0xF0, 0x10, 0x20, 0x40, 0x40]
  | 0x8 => [0xF0, 0x90, 0xF0, 0x90, 0xF0]
  | 0x9 => [0xF0, 0x90, 0xF0, 0x10, 0xF0]
  | 0xA => [0xF0, 0x90, 0xF0, 0x90, 0x90]
  | 0xB => [0xE0, 0x90, 0xE0, 0x90, 0xE0]
  | 0xC => [0xF0, 0x80, 0x80, 0x80, 0xF0]
  | 0xD => [0xE0, 0x90, 0x90, 0x90, 0xE0]
  | 0xE => [0xF0, 0x80, 0xF0, 0x80, 0xF0]
  | 0xF => [0xF0, 0x80, 0xF0, 0x80, 0x80]
  | _ => []

/-- The bytes of the default font, glyph d at 5 x d (10_state.md R23). PRESUMED, unsafe: the spec takes them from
general knowledge (decision D13, log entry 3). -/
def defaultFontBytes : List Byte :=
  glyph 0x0 ++ glyph 0x1 ++ glyph 0x2 ++ glyph 0x3 ++ glyph 0x4 ++ glyph 0x5 ++ glyph 0x6 ++ glyph 0x7 ++
  glyph 0x8 ++ glyph 0x9 ++ glyph 0xA ++ glyph 0xB ++ glyph 0xC ++ glyph 0xD ++ glyph 0xE ++ glyph 0xF

/-- FONT[0..79] by default (00_scope.md R6). -/
def defaultFont : Vector Byte 80 := ⟨defaultFontBytes.toArray, by decide⟩

/-- Every parameter at its default (00_scope.md R6; log entries 1, 15, 21). -/
def defaultConfig : Config where
  timerMode := .perCycle
  font := defaultFont
  addrOverrun := .wrap
  drwOffscreen := .clip
  keyIndex := .low4
  pcOverrun := .wrap
  vfAlias := .literal
  drwVfCoord := .readFirst
  nonCanonical := .decode

/-- I after reset. DESIGN CHOICE, unsafe: the spec's decision D14 (R29, log entry 4). -/
def resetI : Word := 0

/-- DT after reset. DESIGN CHOICE, unsafe: the spec's decision D14 (R29, log entry 4). -/
def resetDT : Byte := 0

/-- ST after reset. DESIGN CHOICE, unsafe: the spec's decision D14 (R29, log entry 4). -/
def resetST : Byte := 0

/-- DF after reset. DESIGN CHOICE, unsafe: the spec's decision D14 (R29, log entry 4). -/
def resetDF : Bool := true

/-- The program counter after reset, the entry point (R29, R186; PROG_BASE of R4). -/
def progBase : Addr := 0x200

end Sys2Proof.Machine
end

