-- ==== Sys2Proof/Machine/State.lean ====
section
/-! DEFINITION. The state of the core (10_state.md), the reasons a step can stop, and the state after reset (R29).
State is plain data; every piece of state the spec names is a field. -/

namespace Sys2Proof.Machine

/-- MEM (10_state.md R22): the bytes that differ from the reset contents, as (address, byte), addresses rising.
The canonical form is `Memory.wf` in Sys2Proof/Machine/Memory.lean (log entry 23). -/
abbrev Memory := List Host.Cell

/-- FB (10_state.md R24): 32 rows of 64 one-bit pixels; bit x of row y is the pixel at column x, row y (log entry 11). -/
abbrev FrameBuf := Vector (BitVec 64) 32

/-- The machine between two cycles, and the machine an instruction's rule sees (then PC is already advanced, R60). -/
structure State where
  /-- V[0]..V[15]; V[15] is VF (R10, R11). -/
  v : Vector Byte 16
  /-- The index register I (R15). -/
  i : Word
  /-- The program counter, 12 bits (R12). -/
  pc : Addr
  /-- The stack pointer: the number of return addresses held (R16). -/
  sp : Byte
  /-- STK[0]..STK[15] (R21). -/
  stk : Vector Word 16
  /-- The delay timer (R17). -/
  dt : Byte
  /-- The sound timer (R18). -/
  st : Byte
  /-- KEY[0]..KEY[15], true = pressed (R19). -/
  key : Vector Bool 16
  /-- The framebuffer (R24). -/
  fb : FrameBuf
  /-- The draw flag (R20). -/
  df : Bool
  /-- TONE, the output of the last cycle or tick (R25; log entry 16). -/
  tone : Bool
  /-- The 4096 bytes of memory (R22). -/
  mem : Memory
  /-- The machine's parameters (00_scope.md R6); no cycle changes them (log entry 1). -/
  cfg : Config
  /-- The MODEL's own field: the number of the cycle's random draw (R26; log entry 2). -/
  draws : Nat
  deriving DecidableEq, Repr

/-- A cycle to which the spec gives no successor state (60_exceptions.md R161): `a` is the address the cycle fetched
from and `op` the opcode. Nothing of the cycle is committed. All are safe: the model stops. -/
inductive Fault where
  /-- Code 1, raised by CALL when SP = 16 (R82, R162). Safe. -/
  | stackOverflow (a : Addr) (op : Word)
  /-- Code 2, raised by RET when SP = 0 (R80, R162). Safe. -/
  | stackUnderflow (a : Addr) (op : Word)
  /-- Code 3, raised under ADDR_OVERRUN = fault by FX33, FX55, FX65 and DRW when a byte address exceeds 0xFFF (U2). Safe. -/
  | memoryOverrun (a : Addr) (op : Word)
  /-- Code 3, raised under ADDR_OVERRUN = fault by the fetch at PC = 0xFFF (U2); no opcode was fetched. Safe. -/
  | fetchOverrun (a : Addr)
  /-- Code 4, raised under DRW_OFFSCREEN = fault by DRW when a set sprite bit is off the screen (U3). Safe. -/
  | drawOutOfRange (a : Addr) (op : Word)
  /-- Code 5, raised under KEY_INDEX = fault by SKP and SKNP when V[X] > 15 (U4). Safe. -/
  | keyOutOfRange (a : Addr) (op : Word)
  /-- Code 6, raised under PC_OVERRUN = fault by the advance, a skip or JP V0 when PC would exceed 0xFFF (U5). Safe. -/
  | pcOutOfRange (a : Addr) (op : Word)
  /-- No code of the spec: raised by CALL and RET when SP is above 16, which is never reached from reset (R16);
  the stack entry they would use does not exist (R21). Safe (log entry 7). -/
  | stackPointerInvalid (a : Addr) (op : Word)
  deriving DecidableEq, Repr

/-- An input outside what the model makes a claim about. All are safe: the model stops. -/
inductive Refusal where
  /-- Kept for an instruction without a meaning; no arm of exec answers it. Safe. -/
  | notModelled (mnemonic : String)
  /-- Under VF_ALIAS = refuse: 8XY4, 8XY5, 8XY7 with X or Y = F, 8XY6, 8XYE with X = F (U6). Safe. -/
  | vfAlias
  /-- Under DRW_VF_COORD = refuse: DXYN with X or Y = F (U7). Safe. -/
  | drwVfCoord
  /-- Under NONCANONICAL = refuse: a cycle that fetches a word with nonzero ignored bits (U9). Safe. -/
  | nonCanonical
  /-- Raised by the host operation set_key with an index above 15 (decision D23; U16). Safe. -/
  | setKeyIndex
  /-- Raised by the host operation tick when TIMER_MODE is per_cycle (R28, R196). Safe. -/
  | tickNotSeparate
  deriving DecidableEq, Repr

/-- The state right after reset (R29, R185), with the default parameters. An unlisted byte of memory reads as the
reset contents, so memory lists nothing. -/
def State.reset : State where
  v := Vector.replicate 16 0
  i := resetI
  pc := progBase
  sp := 0
  stk := Vector.replicate 16 0
  dt := resetDT
  st := resetST
  key := Vector.replicate 16 false
  fb := Vector.replicate 32 0
  df := resetDF
  tone := false
  mem := []
  cfg := defaultConfig
  draws := 0

end Sys2Proof.Machine
end

