-- ==== Sys2Proof/Machine/Memory.lean ====
section
/-! DEFINITION. Operations over memory as a canonical list of cells (10_state.md R22, 20_memory.md R40 to R48). Keys are
the 4096 addresses; the reduction of R44 is made by `memAddr`. -/

namespace Sys2Proof.Machine

/-- The number of bytes of memory (MEM_SIZE of 00_scope.md R4). -/
def memSize : Nat := 4096

/-- What an unlisted address reads as: the reset contents, the default font below 0x050 and 0x00 elsewhere
(10_state.md R29; log entry 23). -/
def Memory.initial (a : Nat) : Byte := defaultFontBytes.getD a 0

/-- The byte at an address. -/
def Memory.read : Memory → Nat → Byte
  | [], a => Memory.initial a
  | (b, w) :: m, a => if a = b then w else Memory.read m a

/-- Stores one byte, keeping the canonical form: writing the byte an unlisted address reads as removes the entry. -/
def Memory.write : Memory → Nat → Byte → Memory
  | [], a, x => if x = Memory.initial a then [] else [(a, x)]
  | (b, w) :: m, a, x =>
    if a < b then
      if x = Memory.initial a then (b, w) :: m else (a, x) :: (b, w) :: m
    else if a = b then
      if x = Memory.initial a then m else (a, x) :: m
    else (b, w) :: Memory.write m a x

/-- The address the memory sees: every address is reduced modulo 4096 (20_memory.md R44; decision D2, log entry 6). -/
def memAddr (a : Nat) : Nat := a % memSize

/-- MemWrite of consecutive bytes at ascending addresses, each address reduced separately (R44, R46). -/
def Memory.writeBytes : Memory → Nat → List Byte → Memory
  | m, _, [] => m
  | m, a, x :: xs => Memory.writeBytes (Memory.write m (memAddr a) x) (a + 1) xs

/-- Whether every address of a list of cells lies above `lo`, rises, is one of the 4096, and holds another byte than
an unlisted one would. -/
def Memory.wfFrom : Nat → Memory → Bool
  | _, [] => true
  | lo, (b, w) :: m => lo ≤ b && b < memSize && w != Memory.initial b && Memory.wfFrom (b + 1) m

/-- The canonical form: addresses strictly rising within the address space, no entry equal to what an unlisted
address reads as. -/
def Memory.wf (m : Memory) : Bool := Memory.wfFrom 0 m

end Sys2Proof.Machine
end

