-- ==== Sys2Proof/Machine/Ops.lean ====
section
/-! DEFINITION. The named operations over the state that the instruction rules use (00_scope.md R8): registers, memory,
program counter, stack, timers, and the outcome of a cycle that has no successor (60_exceptions.md R161). -/

namespace Sys2Proof.Machine

/-- The outcome of an instruction or a cycle. -/
abbrev Result := Host.Outcome State Fault Refusal

/-! ## Registers, stack entries and key latches (10_state.md R10, R11, R15, R19, R21) -/

/-- V[x]. -/
def State.getV (s : State) (x : RegIdx) : Byte := s.v[x]

/-- V[x] <- b. -/
def State.setV (s : State) (x : RegIdx) (b : Byte) : State := { s with v := s.v.set x b }

/-- STK[k] (R21). -/
def State.stkAt (s : State) (k : Fin 16) : Word := s.stk[k]

/-- KEY[k] (R19). -/
def State.keyAt (s : State) (k : Fin 16) : Bool := s.key[k]

/-- I <- w. -/
def State.setI (s : State) (w : Word) : State := { s with i := w }

/-- PC <- a (a 12-bit register, so every write is modulo 4096: R12, decision D1, log entry 5). -/
def State.setPC (s : State) (a : Addr) : State := { s with pc := a }

/-- DT <- b (R17). -/
def State.setDT (s : State) (b : Byte) : State := { s with dt := b }

/-- ST <- b (R18). -/
def State.setST (s : State) (b : Byte) : State := { s with st := b }

/-! ## Memory (20_memory.md R44 to R48) -/

/-- MemRead(a, 1). -/
def State.readByte (s : State) (a : Nat) : Byte := Memory.read s.mem (memAddr a)

/-- MemRead(a, 2): the byte at the lower address is the more significant (R44, R45). -/
def State.readWord (s : State) (a : Nat) : Word := s.readByte a ++ s.readByte (a + 1)

/-- MemWrite of bytes at ascending addresses (R44, R46). -/
def State.writeBytes (s : State) (a : Nat) (bytes : List Byte) : State :=
  { s with mem := Memory.writeBytes s.mem a bytes }

/-! ## Faults (60_exceptions.md R161, R162) -/

/-- The fault of the instruction being executed: PC is its address plus 2 (10_state.md R14), so its address is PC - 2 and
its opcode the word there (log entry 8). The one operation by which an instruction ends a run. -/
def faultHere (s : State) (cause : Addr → Word → Fault) : Fault :=
  cause (s.pc - 2) (s.readWord (s.pc - 2).toNat)

/-- The fault if there is one, else the next state. -/
def guarded (f : Option Fault) (t : State) : Result :=
  match f with
  | some r => .fault r
  | none => .next t

/-- The spec's code of a fault (60_exceptions.md R162; 93_implementation_defined.md, fault codes); none for the model's
own stackPointerInvalid. -/
def Fault.code : Fault → Option Nat
  | .stackOverflow _ _ => some 1
  | .stackUnderflow _ _ => some 2
  | .memoryOverrun _ _ => some 3
  | .fetchOverrun _ => some 3
  | .drawOutOfRange _ _ => some 4
  | .keyOutOfRange _ _ => some 5
  | .pcOutOfRange _ _ => some 6
  | .stackPointerInvalid _ _ => none

/-! ## Strictness switches (00_scope.md R6; 93_implementation_defined.md U2, U5; log entry 21) -/

/-- ADDR_OVERRUN: the fault of an access to `n` bytes from address `a` on, if one of them exceeds 0xFFF (U2). -/
def memoryCheck (s : State) (a n : Nat) : Option Fault :=
  if s.cfg.addrOverrun = .fault ∧ 0 < n ∧ 0xFFF < a + (n - 1) then some (faultHere s .memoryOverrun) else none

/-- PC_OVERRUN: the fault of a program counter value above 0xFFF (U5). -/
def pcCheck (s : State) (target : Nat) : Option Fault :=
  if s.cfg.pcOverrun = .fault ∧ 0xFFF < target then some (faultHere s .pcOutOfRange) else none

/-! ## Skips (40_flow.md R87) -/

/-- Skip: PC <- (PC + 2) mod 4096. -/
def State.skip (s : State) : State := s.setPC (s.pc + 2)

/-- A conditional skip (R87): when the condition is false nothing is written. -/
def skipIf (c : Bool) (s : State) : Result :=
  if c then guarded (pcCheck s (s.pc.toNat + 2)) s.skip else .next s

/-! ## The call stack (10_state.md R16, R21) -/

/-- Why CALL has no successor: SP = 16 (R82), or an SP above 16 that no run reaches (log entry 7). -/
def pushCheck (s : State) : Option Fault :=
  if s.sp = 16 then some (faultHere s .stackOverflow)
  else if 16 < s.sp.toNat then some (faultHere s .stackPointerInvalid)
  else none

/-- Why RET has no successor: SP = 0 (R80), or an SP above 16 that no run reaches (log entry 7). -/
def popCheck (s : State) : Option Fault :=
  if s.sp = 0 then some (faultHere s .stackUnderflow)
  else if 16 < s.sp.toNat then some (faultHere s .stackPointerInvalid)
  else none

/-- STK[SP] <- zext_16(PC); SP <- SP + 1 (R82; decision D20, log entry 19). -/
def State.pushPC (s : State) : State :=
  { s with stk := s.stk.setIfInBounds s.sp.toNat (s.pc.setWidth 16), sp := s.sp + 1 }

/-- SP <- SP - 1; PC <- STK[SP][11:0], the entry at the new SP (R80). The entry keeps its value (R21). -/
def State.popPC (s : State) : State :=
  { s with sp := s.sp - 1, pc := (s.stk[(s.sp - 1).toNat]?.getD 0).setWidth 12 }

/-! ## Timers (60_exceptions.md R170) -/

/-- TimerTick: each nonzero timer goes down by one; TONE is 1 exactly when ST was 1 (R170, R25). -/
def timerTick (s : State) : State :=
  { s with
    tone := s.st == 1
    dt := if s.dt = 0 then s.dt else s.dt - 1
    st := if s.st = 0 then s.st else s.st - 1 }

/-! ## Display (10_state.md R24) -/

/-- FB[x,y] of a framebuffer; outside 64 x 32 there is no pixel and the answer is false. -/
def FrameBuf.pixel (fb : FrameBuf) (x y : Nat) : Bool := (fb[y]?.getD 0).getLsbD x

/-- FB[x,y] <- FB[x,y] ^ 1. -/
def FrameBuf.flip (fb : FrameBuf) (x y : Nat) : FrameBuf :=
  fb.setIfInBounds y (fb[y]?.getD 0 ^^^ BitVec.twoPow 64 x)

/-- FB[x,y] (R24). -/
def State.pixel (s : State) (x y : Nat) : Bool := FrameBuf.pixel s.fb x y

end Sys2Proof.Machine
end

