-- ==== Sys2Proof/Machine/Flags.lean ====
section
/-! DEFINITION. Every flag computation (10_state.md R11, 41_alu.md R102 to R104, 42_index_memory.md R121), and the order
of flag write and result write. A flag is the byte 0 or 1 that goes to VF. -/

namespace Sys2Proof.Machine

/-- A condition as the byte VF receives. -/
def flagByte (c : Bool) : Byte := if c then 1 else 0

/-- Carry: 1 exactly when the true sum exceeds 255 (R102, R109). -/
def carryFlag (a b : Byte) : Byte := flagByte (255 < a.toNat + b.toNat)

/-- No borrow in a - b: 1 exactly when a >= b (R102, R110, R112). -/
def noBorrowFlag (a b : Byte) : Byte := flagByte (b.toNat ≤ a.toNat)

/-- The bit a right shift drops, bit 0 (R111). -/
def lsbFlag (a : Byte) : Byte := flagByte (a.getLsbD 0)

/-- The bit a left shift drops, bit 7 (R113). -/
def msbFlag (a : Byte) : Byte := flagByte (a.getLsbD 7)

/-- ADD I,Vx: 1 exactly when the true sum exceeds 0xFFF (R121). -/
def indexFlag (sum : Nat) : Byte := flagByte (0xFFF < sum)

/-- Flag first, then result (R104): VF receives the flag, then V[x] the result computed from the registers as they are
after that write. DESIGN CHOICE, unsafe when x or an operand is VF: the spec's decisions D10, D11 (log entry 13). -/
def flagThenResult (s : State) (x : RegIdx) (flag : Byte) (result : State → Byte) : State :=
  (s.setV VF flag).setV x (result (s.setV VF flag))

/-- VF_ALIAS: whether an instruction with these operands is refused (93_implementation_defined.md U6). -/
def vfAliasRefused (s : State) (operands : List RegIdx) : Bool :=
  s.cfg.vfAlias == .refuse && operands.contains VF

/-- A flag-writing arithmetic instruction: refused under VF_ALIAS = refuse when VF is an operand (U6), else flag, then
result (R104). -/
def flagOp (s : State) (operands : List RegIdx) (x : RegIdx) (flag : Byte) (result : State → Byte) : Result :=
  if vfAliasRefused s operands then .refused .vfAlias else .next (flagThenResult s x flag result)

end Sys2Proof.Machine
end

