-- ==== Sys2Proof/Machine/Operands.lean ====
section
/-! DEFINITION. The operand forms (30_encoding.md R63, 42_index_memory.md R126, 44_keypad_timers.md R151): register
ranges, bytes at I, the decimal digits of a byte, key selection and the sprite. Constants NN, NNN and N are used as they
are (R63), so they need no operation. -/

namespace Sys2Proof.Machine

/-- V[0], ..., V[X], X included (42_index_memory.md R124). -/
def regsUpTo (s : State) (x : RegIdx) : List Byte := s.v.toList.take (x.val + 1)

/-- V[k] <- MemRead(a + k, 1) for the first `n` registers, ascending (R125). -/
def loadRegs (s : State) (a : Nat) : Nat → Vector Byte 16
  | 0 => s.v
  | k + 1 => (loadRegs s a k).setIfInBounds k (s.readByte (a + k))

/-- Hundreds, tens and units of a byte, one byte each (42_index_memory.md R123). -/
def bcdDigits (b : Byte) : List Byte :=
  [BitVec.ofNat 8 (b.toNat / 100), BitVec.ofNat 8 (b.toNat / 10 % 10), BitVec.ofNat 8 (b.toNat % 10)]

/-- I + X + 1 (mod 65536), where FX55 and FX65 leave the index register (R124, R125; decision D19, log entry 18). -/
def indexAfter (s : State) (x : RegIdx) : Word := s.i + BitVec.ofNat 16 (x.val + 1)

/-- The key number a register selects: its low 4 bits (44_keypad_timers.md R151; decision D9, log entry 12). -/
def keySelect (b : Byte) : RegIdx := (b.setWidth 4).toFin

/-- KEY[V[X][3:0]] (R145, R146). -/
def keyHeld (s : State) (x : RegIdx) : Bool := s.keyAt (keySelect (s.getV x))

/-- KEY_INDEX: the fault of a key number above 15 (93_implementation_defined.md U4). -/
def keyCheck (s : State) (x : RegIdx) : Option Fault :=
  if s.cfg.keyIndex = .fault ∧ 15 < (s.getV x).toNat then some (faultHere s .keyOutOfRange) else none

/-- A key skip: the strict key check, then the conditional skip (R145, R146, R87). -/
def keySkip (s : State) (x : RegIdx) (c : Bool) : Result :=
  match keyCheck s x with
  | some r => .fault r
  | none => skipIf c s

/-- The least pressed key, in scan order 0..15 (R148). -/
def leastKey (s : State) : Option Nat := s.key.toList.findIdx? id

/-! ## The sprite (43_display.md R136 to R138)

`x0` and `y0` are the full register values (R137); the sums are plain integers (R138). -/

/-- Bit 7-c of a sprite row, which lands on column x0 + c (R137; decision D8, log entry 11). -/
def spriteBit (b : Byte) (c : Nat) : Bool := b.getLsbD (7 - c)

/-- Whether a pixel position is on the 64 x 32 screen (R138). -/
def onScreen (x y : Nat) : Bool := x ≤ 63 && y ≤ 31

/-- One sprite bit: a set bit on the screen flips its pixel and records whether the pixel was lit (R136); a bit off the
screen is clipped (R138; decision D6, log entry 9). -/
def drawBit (b : Byte) (x0 y : Nat) (acc : FrameBuf × Bool) (c : Nat) : FrameBuf × Bool :=
  if spriteBit b c && onScreen (x0 + c) y then
    (FrameBuf.flip acc.1 (x0 + c) y, acc.2 || FrameBuf.pixel acc.1 (x0 + c) y)
  else acc

/-- Row r of the sprite, the byte at I + r, on screen row y0 + r (R137). -/
def drawRow (s : State) (x0 y0 : Nat) (acc : FrameBuf × Bool) (r : Nat) : FrameBuf × Bool :=
  (List.range 8).foldl (drawBit (s.readByte (s.i.toNat + r)) x0 (y0 + r)) acc

/-- The n rows of the sprite: the new framebuffer, and whether some pixel went from 1 to 0 (R136). -/
def drawSprite (s : State) (x0 y0 n : Nat) : FrameBuf × Bool :=
  (List.range n).foldl (drawRow s x0 y0) (s.fb, false)

/-- Whether row r of the sprite has a set bit off the screen (93_implementation_defined.md U3). -/
def rowOffscreen (s : State) (x0 y0 r : Nat) : Bool :=
  (List.range 8).any fun c => spriteBit (s.readByte (s.i.toNat + r)) c && !onScreen (x0 + c) (y0 + r)

/-- The strict checks of DRW for one row, in pseudocode order: the read of the row, then its pixels (U2, U3). -/
def drawRowCheck (s : State) (x0 y0 r : Nat) : Option Fault :=
  match memoryCheck s (s.i.toNat + r) 1 with
  | some f => some f
  | none =>
    if s.cfg.drwOffscreen = .fault ∧ rowOffscreen s x0 y0 r then some (faultHere s .drawOutOfRange) else none

/-- The strict checks of DRW: the first row that faults (U2, U3; log entry 21). -/
def drawCheck (s : State) (x0 y0 n : Nat) : Option Fault :=
  (List.range n).findSome? (drawRowCheck s x0 y0)

end Sys2Proof.Machine
end

