-- ==== Sys2Proof/Machine/Cycle.lean ====
section
/-! DEFINITION. The parts of a cycle around the instruction (30_encoding.md R60): fetch, advance, the checks of the
strictness switches, and the end of the cycle. -/

namespace Sys2Proof.Machine

/-- Fetch: op <- MemRead(PC, 2) (R60 step 1, R45). -/
def fetchOpcode (s : State) : Word := s.readWord s.pc.toNat

/-- Advance: PC <- (PC + 2) mod 4096, before dispatch (R60 step 2). -/
def advance (s : State) : State := s.setPC (s.pc + 2)

/-- The strict checks of the fetch and the advance (93_implementation_defined.md U2, U5; log entry 21); none by default. -/
def fetchCheck (s : State) : Option Fault :=
  if s.cfg.addrOverrun = .fault ∧ 0xFFF < s.pc.toNat + 1 then some (.fetchOverrun s.pc)
  else if s.cfg.pcOverrun = .fault ∧ 0xFFF < s.pc.toNat + 2 then some (.pcOutOfRange s.pc (fetchOpcode s))
  else none

/-- Under NONCANONICAL = refuse, the refusal of a word whose ignored bits are not zero (U9); none by default. -/
def decodeCheck (s : State) : Option Refusal :=
  if s.cfg.nonCanonical == .refuse && !canonical (fetchOpcode s) then some .nonCanonical else none

/-- The end of a cycle: the timer tick when TIMER_MODE is per_cycle (R60 step 6, R171); in separate mode no tick
happens and TONE is 0 (R25; log entries 15, 16). The next cycle's random byte is another draw (R26; log entry 2). -/
def endCycle (s : State) : State :=
  match s.cfg.timerMode with
  | .perCycle => { timerTick s with draws := s.draws + 1 }
  | .separate => { s with tone := false, draws := s.draws + 1 }

/-- The outcome of a cycle from that of its instruction: a fault or refusal commits nothing (R60, R161). -/
def finishCycle : Result → Result
  | .next t => .next (endCycle t)
  | .fault f => .fault f
  | .refused r => .refused r

end Sys2Proof.Machine
end

