-- ==== Sys2Proof/Machine/Alu.lean ====
section
/-! DEFINITION. Register loads, arithmetic, logic, shifts and random (41_alu.md R100 to R114). -/

namespace Sys2Proof.Machine

/-- LD Vx,NN (R100). -/
def execLdVxNN (x : RegIdx) (nn : Byte) (s : State) : Result := .next (s.setV x nn)

/-- ADD Vx,NN: modulo 256, no flag (R101). -/
def execAddVxNN (x : RegIdx) (nn : Byte) (s : State) : Result := .next (s.setV x (s.getV x + nn))

/-- LD Vx,Vy (R105). -/
def execLdVxVy (x y : RegIdx) (s : State) : Result := .next (s.setV x (s.getV y))

/-- OR Vx,Vy: VF is not cleared (R106, R103). -/
def execOrVxVy (x y : RegIdx) (s : State) : Result := .next (s.setV x (s.getV x ||| s.getV y))

/-- AND Vx,Vy (R107, R103). -/
def execAndVxVy (x y : RegIdx) (s : State) : Result := .next (s.setV x (s.getV x &&& s.getV y))

/-- XOR Vx,Vy (R108, R103). -/
def execXorVxVy (x y : RegIdx) (s : State) : Result := .next (s.setV x (s.getV x ^^^ s.getV y))

/-- ADD Vx,Vy with carry in VF (R109, R104). -/
def execAddVxVy (x y : RegIdx) (s : State) : Result :=
  flagOp s [x, y] x (carryFlag (s.getV x) (s.getV y)) fun t => t.getV x + t.getV y

/-- SUB Vx,Vy with no-borrow in VF (R110, R104). -/
def execSubVxVy (x y : RegIdx) (s : State) : Result :=
  flagOp s [x, y] x (noBorrowFlag (s.getV x) (s.getV y)) fun t => t.getV x - t.getV y

/-- SHR Vx: V[X] itself is shifted, V[Y] is neither read nor written (R111, R104). -/
def execShrVx (x _y : RegIdx) (s : State) : Result :=
  flagOp s [x] x (lsbFlag (s.getV x)) fun t => t.getV x >>> 1

/-- SUBN Vx,Vy: V[Y] - V[X] (R112, R104). -/
def execSubnVxVy (x y : RegIdx) (s : State) : Result :=
  flagOp s [x, y] x (noBorrowFlag (s.getV y) (s.getV x)) fun t => t.getV y - t.getV x

/-- SHL Vx: V[X] itself is shifted, V[Y] is neither read nor written (R113, R104). -/
def execShlVx (x _y : RegIdx) (s : State) : Result :=
  flagOp s [x] x (msbFlag (s.getV x)) fun t => t.getV x <<< 1

/-- RND Vx,NN: the cycle's random byte, a free value, ANDed with NN (R114, R26; decision D17, log entry 2). -/
def execRndVxNN (x : RegIdx) (nn : Byte) (s : State) : Result := .next (s.setV x (Config.rnd s.draws &&& nn))

end Sys2Proof.Machine
end

