-- ==== Sys2Proof/Machine/Display.lean ====
section
/-! DEFINITION. Display instructions (43_display.md R135 to R139). -/

namespace Sys2Proof.Machine

/-- CLS: every pixel 0, DF 1; VF is not written (R135). -/
def execCls (s : State) : Result := .next { s with fb := Vector.replicate 32 0, df := true }

/-- The state DRW leaves: the sprite XORed in, VF the collision flag, DF 1; I is unchanged (R136). The coordinates are
the registers before VF is written (decision D7, log entry 10). -/
def drawn (s : State) (x y : RegIdx) (n : Nat) : State :=
  { s.setV VF (flagByte (drawSprite s (s.getV x).toNat (s.getV y).toNat n).2) with
    fb := (drawSprite s (s.getV x).toNat (s.getV y).toNat n).1
    df := true }

/-- DRW Vx,Vy,N (R136 to R138): refused under DRW_VF_COORD = refuse when VF is a coordinate (U7). -/
def execDrwVxVyN (x y : RegIdx) (n : Fin 16) (s : State) : Result :=
  if s.cfg.drwVfCoord == .refuse && [x, y].contains VF then .refused .drwVfCoord
  else guarded (drawCheck s (s.getV x).toNat (s.getV y).toNat n.val) (drawn s x y n.val)

end Sys2Proof.Machine
end

