-- ==== Sys2Proof/Machine/Flow.lean ====
section
/-! DEFINITION. Control transfer (40_flow.md R80 to R89) and the unknown opcode (30_encoding.md R68). In every meaning PC
already holds the address of the instruction plus 2 (R60). -/

namespace Sys2Proof.Machine

/-- RET (R80). -/
def execRet (s : State) : Result := guarded (popCheck s) s.popPC

/-- JP addr (R81). -/
def execJpAddr (nnn : Addr) (s : State) : Result := .next (s.setPC nnn)

/-- CALL addr (R82): the address pushed is the one after the CALL. -/
def execCallAddr (nnn : Addr) (s : State) : Result := guarded (pushCheck s) (s.pushPC.setPC nnn)

/-- SE Vx,NN: skip if equal (R83, R87; the meaning of SE is general knowledge, G4, log entry 20). -/
def execSeVxNN (x : RegIdx) (nn : Byte) (s : State) : Result := skipIf (s.getV x == nn) s

/-- SNE Vx,NN: skip if not equal (R84, R87; log entry 20). -/
def execSneVxNN (x : RegIdx) (nn : Byte) (s : State) : Result := skipIf (s.getV x != nn) s

/-- SE Vx,Vy (R85, R87; log entry 20). -/
def execSeVxVy (x y : RegIdx) (s : State) : Result := skipIf (s.getV x == s.getV y) s

/-- SNE Vx,Vy (R86, R87; log entry 20). -/
def execSneVxVy (x y : RegIdx) (s : State) : Result := skipIf (s.getV x != s.getV y) s

/-- JP V0,addr (R88): the 12-bit PC keeps the low 12 bits of NNN + V[0] (decision D1, log entry 5). -/
def execJpV0Addr (nnn : Addr) (s : State) : Result :=
  guarded (pcCheck s (nnn.toNat + (s.getV 0).toNat)) (s.setPC (nnn + (s.getV 0).setWidth 12))

/-- An unknown opcode: nothing beyond the advance and the tick of its cycle, whatever the word (R68). -/
def execUnknown (_op : Word) (s : State) : Result := .next s

end Sys2Proof.Machine
end

