-- ==== Sys2Proof/Machine/IndexMemory.lean ====
section
/-! DEFINITION. Index register and memory instructions (42_index_memory.md R120 to R126). -/

namespace Sys2Proof.Machine

/-- LD I,addr (R120). -/
def execLdIAddr (nnn : Addr) (s : State) : Result := .next (s.setI (nnn.setWidth 16))

/-- ADD I,Vx: I modulo 65536, VF from the true sum, both from the state before (R121; decision D19, log entry 18). -/
def execAddIVx (x : RegIdx) (s : State) : Result :=
  .next ((s.setI (s.i + (s.getV x).setWidth 16)).setV VF (indexFlag (s.i.toNat + (s.getV x).toNat)))

/-- LD F,Vx: the full 8-bit register times 5 (R122). -/
def execLdFVx (x : RegIdx) (s : State) : Result := .next (s.setI ((s.getV x).setWidth 16 * 5))

/-- LD B,Vx: three digits at I, I+1, I+2; I unchanged (R123). -/
def execLdBVx (x : RegIdx) (s : State) : Result :=
  guarded (memoryCheck s s.i.toNat 3) (s.writeBytes s.i.toNat (bcdDigits (s.getV x)))

/-- LD [I],Vx: V[0..X] to memory at I, then I <- I + X + 1 (R124). -/
def execLdMemVx (x : RegIdx) (s : State) : Result :=
  guarded (memoryCheck s s.i.toNat (x.val + 1)) ((s.writeBytes s.i.toNat (regsUpTo s x)).setI (indexAfter s x))

/-- LD Vx,[I]: memory at I to V[0..X], then I <- I + X + 1 (R125). -/
def execLdVxMem (x : RegIdx) (s : State) : Result :=
  guarded (memoryCheck s s.i.toNat (x.val + 1))
    { s with v := loadRegs s s.i.toNat (x.val + 1), i := indexAfter s x }

end Sys2Proof.Machine
end

