-- ==== Sys2Proof/Machine/KeypadTimers.lean ====
section
/-! DEFINITION. Keypad and timer instructions (44_keypad_timers.md R145 to R151). None writes a key latch (R19; conflict
C10, log entry 29). -/

namespace Sys2Proof.Machine

/-- SKP Vx: skip if the selected key is pressed (R145, R151, R87). -/
def execSkpVx (x : RegIdx) (s : State) : Result := keySkip s x (keyHeld s x)

/-- SKNP Vx: skip if the selected key is not pressed (R146, R151, R87). -/
def execSknpVx (x : RegIdx) (s : State) : Result := keySkip s x (!keyHeld s x)

/-- LD Vx,DT: DT before this cycle's tick (R147). -/
def execLdVxDT (x : RegIdx) (s : State) : Result := .next (s.setV x s.dt)

/-- LD Vx,K: with no key pressed PC goes back to this instruction; else V[X] receives the least pressed key (R148). -/
def execLdVxK (x : RegIdx) (s : State) : Result :=
  match leastKey s with
  | none => .next (s.setPC (s.pc - 2))
  | some k => .next (s.setV x (BitVec.ofNat 8 k))

/-- LD DT,Vx (R149). -/
def execLdDTVx (x : RegIdx) (s : State) : Result := .next (s.setDT (s.getV x))

/-- LD ST,Vx (R150). -/
def execLdSTVx (x : RegIdx) (s : State) : Result := .next (s.setST (s.getV x))

end Sys2Proof.Machine
end

