-- ==== Sys2Proof/Machine/Step.lean ====
section
/-! DEFINITION. One cycle of the core (30_encoding.md R60): fetch, advance, decode, dispatch, timers. -/

namespace Sys2Proof.Machine

/-- One `step` (R60). -/
def step (s : State) : Host.Outcome State Fault Refusal :=
  match fetchCheck s, decodeCheck s with
  | some f, _ => .fault f
  | none, some r => .refused r
  | none, none => finishCycle (exec (decodeWord (fetchOpcode s)) (advance s))

/-- `s` with the instruction whose bits are `w` (numbered as spec/opcode_table.json numbers them, bits above `nbits`
zero) stored where the next fetch reads: its two bytes, big-endian, at PC and PC + 1 (R45). It stands for a load of a
program (70_reset_and_hazards.md R190; log entry 22). -/
def State.withFetchWord (s : State) (nbits w : Nat) : State :=
  s.writeBytes s.pc.toNat (wordBytes (BitVec.ofNat 16 (w % 2 ^ nbits)))

end Sys2Proof.Machine
end

