-- ==== Sys2Proof/Machine/HostOps.lean ====
section
/-! DEFINITION. What the host can do to the core, always between cycles (10_state.md R28, 70_reset_and_hazards.md R185 to
R196; log entry 22). -/

namespace Sys2Proof.Machine

/-- Memory after reset: all zero, then the machine's font at 0x000 (R29, R185). -/
def resetMemory (font : Vector Byte 80) : Memory := Memory.writeBytes [] 0 font.toList

/-- `reset` (R185): every element at R29's value, the machine's own parameters kept. The number of the random draw goes
on: a reset reseeds nothing (93_implementation_defined.md U10; log entry 28). -/
def hostReset (s : State) : State :=
  { State.reset with mem := resetMemory s.cfg.font, cfg := s.cfg, draws := s.draws }

/-- ROM_MAX of 00_scope.md R4 (conflict C3). -/
def romMax : Nat := 3584

/-- The one way a load of a byte list fails (R191). -/
inductive LoadError where
  /-- More than ROM_MAX bytes; the machine is left reset (R190). -/
  | romTooLarge
  deriving DecidableEq, Repr

/-- The error of `load(bytes)`, if any (R190). -/
def loadError (bytes : List Byte) : Option LoadError :=
  if romMax < bytes.length then some .romTooLarge else none

/-- The state `load(bytes)` leaves: reset first, then, unless the ROM is too large, the bytes at 0x200 (R190). -/
def hostLoad (bytes : List Byte) (s : State) : State :=
  match loadError bytes with
  | some _ => hostReset s
  | none => (hostReset s).writeBytes progBase.toNat bytes

/-- `set_key(index, pressed)` for an index in 0..15 (R193). -/
def hostSetKey (k : Fin 16) (pressed : Bool) (s : State) : State := { s with key := s.key.set k pressed }

/-- `clear_df` (R194). -/
def hostClearDF (s : State) : State := { s with df := false }

/-- Read-back of the framebuffer: display[k] is FB[k mod 64, k div 64] (R195, 10_state.md R24; log entry 11). The other
read-backs of R195 are the fields of State, and memory[a] is `State.readByte`. -/
def State.display (s : State) (k : Nat) : Bool := s.pixel (k % 64) (k / 64)

/-- The host operations (R196). -/
inductive HostOp where
  | reset
  | load (bytes : List Byte)
  | step
  | tick
  | setKey (index : Nat) (pressed : Bool)
  | clearDF
  deriving DecidableEq, Repr

/-- One host operation: `tick` exists in separate mode only (R28, R171), a key index above 15 is outside the contract
(R193; decision D23). A failed load leaves the machine reset and reports `loadError` (R190). -/
def hostApply (o : HostOp) (s : State) : Result :=
  match o with
  | .reset => .next (hostReset s)
  | .load bytes => .next (hostLoad bytes s)
  | .step => step s
  | .tick => if s.cfg.timerMode = .separate then .next (timerTick s) else .refused .tickNotSeparate
  | .setKey index pressed =>
    if h : index < 16 then .next (hostSetKey ⟨index, h⟩ pressed s) else .refused .setKeyIndex
  | .clearDF => .next (hostClearDF s)

end Sys2Proof.Machine
end

