-- ==== Sys2Proof/WellFormed.lean ====
section
/-! DEFINITION. Which instructions are well formed. Registers, constants and addresses are in range by their types
(30_encoding.md R62, R63); the one check left is that a word called unknown has no key in the opcode map (R68, R69). -/

namespace Sys2Proof

/-- An instruction the decoder can answer: an unknown opcode is a word whose key is not in the map (R68). -/
def Instr.wellFormed : Instr → Bool
  | .unknown op => !opKeys.contains (dispatchKey op)
  | _ => true

end Sys2Proof
end

