-- ==== Sys2Proof/Safety.lean ====
section
/-! DEFINITION. The terms claims are stated in: the invariant of the machine, what it means that something is unchanged,
the default switches, and the end of a run (70_reset_and_hazards.md R199). -/

namespace Sys2Proof.Machine

/-- The invariant every step keeps: memory is canonical; SP is one of its legal values 0 to 16 (10_state.md R16); bits
15:12 of every stack entry are 0 (R21). -/
def StateInv (s : State) : Prop :=
  Memory.wf s.mem = true ∧ s.sp.toNat ≤ 16 ∧ ∀ k : Fin 16, (s.stkAt k).toNat < 4096

/-- Every strictness switch at its default; TIMER_MODE and FONT are free (00_scope.md R6). -/
def DefaultSwitches (s : State) : Prop :=
  s.cfg.addrOverrun = .wrap ∧ s.cfg.drwOffscreen = .clip ∧ s.cfg.keyIndex = .low4 ∧ s.cfg.pcOverrun = .wrap ∧
  s.cfg.vfAlias = .literal ∧ s.cfg.drwVfCoord = .readFirst ∧ s.cfg.nonCanonical = .decode

/-- Every byte of memory reads in `t` as in `s`. -/
def SameMemory (s t : State) : Prop := ∀ a : Nat, t.readByte a = s.readByte a

/-- Every register outside the list holds in `t` what it holds in `s`. -/
def SameRegsBut (ds : List RegIdx) (s t : State) : Prop := ∀ r : RegIdx, r ∉ ds → t.getV r = s.getV r

/-- `t` is `s` but for V registers of the list: other registers, I, PC, the stack, the timers, the key latches, the
framebuffer, the draw flag, TONE, every byte of memory and the parameters are unchanged. -/
def OnlyRegs (ds : List RegIdx) (s t : State) : Prop :=
  SameRegsBut ds s t ∧ SameMemory s t ∧ t = { s with v := t.v }

/-- `t` is `s` but for PC. -/
def OnlyPC (s t : State) : Prop :=
  (∀ r : RegIdx, t.getV r = s.getV r) ∧ SameMemory s t ∧ t = { s with pc := t.pc }

/-- `t` is `s` but for I. -/
def OnlyI (s t : State) : Prop :=
  (∀ r : RegIdx, t.getV r = s.getV r) ∧ SameMemory s t ∧ t = { s with i := t.i }

/-- The byte addresses an access to `n` bytes from `a` on touches, each reduced modulo 4096 (20_memory.md R44). -/
def Touches (a n b : Nat) : Prop := ∃ k : Nat, k < n ∧ b = memAddr (a + k)

/-- Whether the sprite of n rows at I, with its origin at column x0, row y0, has a set bit at column i, row j (R137): row
j - y0 of the sprite is the byte at I + (j - y0), and its bit 7 is the leftmost pixel. -/
def SpriteCovers (s : State) (x0 y0 n i j : Nat) : Prop :=
  x0 ≤ i ∧ i < x0 + 8 ∧ y0 ≤ j ∧ j < y0 + n ∧ (s.readByte (s.i.toNat + (j - y0))).getLsbD (7 - (i - x0)) = true

/-- The program has stopped, in the sense R199 suggests: PC = a and MEM[a..a+1] encodes `JP a` (decision D22; it does not
say that the hardware stops; log entry 30). -/
def Stopped (s : State) : Prop := fetchOpcode s = encode (.jpAddr s.pc)

/-- The reasons R162 gives for a fault, under the default switches: CALL at SP = 16, RET at SP = 0. -/
def FaultCondition (s : State) : Prop :=
  ((∃ nnn : Addr, decodeWord (fetchOpcode s) = .callAddr nnn) ∧ s.sp = 16) ∨
  (decodeWord (fetchOpcode s) = .ret ∧ s.sp = 0)

end Sys2Proof.Machine
end

