-- ==== Sys2Proof/Certificates/Slice0/Obligations.lean ====
section
/-! DEFINITION. The statements for the provers, in the order of OBLIGATIONS.json. Each docstring names the rule of spec/
it formalises, or says that it rests on a decision of spec/92_eei_decisions.md or on a choice of the model. -/

open Sys2Proof Sys2Proof.Machine

/-! ## Encoding -/

/-- Words of the spec's own examples and vectors decode to the instructions they stand for (95_test_vectors.md S10 and
parts 2.1 to 2.6; 90_conflicts.md C15). -/
def Obligations.SpecWordsDecode : Prop :=
  decodeWord 0x00E0 = .cls ∧ decodeWord 0x2ABC = .callAddr 0xABC ∧ decodeWord 0x3A12 = .seVxNN 0xA 0x12 ∧
  decodeWord 0x6A7F = .ldVxNN 0xA 0x7F ∧ decodeWord 0x8AB4 = .addVxVy 0xA 0xB ∧
  decodeWord 0x81F4 = .addVxVy 0x1 0xF ∧ decodeWord 0xA123 = .ldIAddr 0x123 ∧
  decodeWord 0xD122 = .drwVxVyN 0x1 0x2 0x2 ∧ decodeWord 0xE19E = .skpVx 0x1 ∧
  decodeWord 0xF355 = .ldMemVx 0x3 ∧ decodeWord 0x814F = .unknown 0x814F ∧
  decodeWord 0x0123 = .unknown 0x0123 ∧ decodeWord 0xF375 = .unknown 0xF375

/-- Decoding the bytes of any well-formed instruction gives it back, with every operand, and leaves the bytes after it
(30_encoding.md R62, R65, R66). -/
def Obligations.DecodeEncodeAgree : Prop :=
  ∀ (i : Instr) (rest : List Byte), i.wellFormed = true →
    decodeWord (encode i) = i ∧ decode (encodeBytes i ++ rest) = .ok (i, rest)

/-- Encoding what a word decodes to gives the word back, for every word whose ignored bits are zero (R65, R67), and every
decoded instruction is well formed. -/
def Obligations.EncodeDecodeAgree : Prop :=
  ∀ op : Word, (decodeWord op).wellFormed = true ∧ (canonical op = true → encode (decodeWord op) = op)

/-- The opcode map has 34 pairwise distinct keys; a word selects the row whose key is `op & mask(class)`, and a word whose
key is no row's is an unknown opcode (R64, R66, R68). -/
def Obligations.OpcodeMapIsClosed : Prop :=
  opKeys.length = 34 ∧ opKeys.Nodup ∧
  (∀ row ∈ opMap, ∀ op : Word, dispatchKey op = row.1 → decodeWord op = row.2 op) ∧
  (∀ op : Word, dispatchKey op ∉ opKeys ↔ decodeWord op = .unknown op)

/-- The unknown opcodes are exactly those R69 lists, class by class. That 0x0uE0 and 0x0uEE of class 0, and every word of
classes 5 and 9, are not among them for any ignored bits is decision D12 (log entry 14). -/
def Obligations.UnknownOpcodesExactly : Prop :=
  ∀ op : Word, decodeWord op = .unknown op ↔
    (opClass op = 0x0 ∧ opNN op ∉ [0xE0, 0xEE]) ∨
    (opClass op = 0x8 ∧ opN op ∈ [0x8, 0x9, 0xA, 0xB, 0xC, 0xD, 0xF]) ∨
    (opClass op = 0xE ∧ opNN op ∉ [0x9E, 0xA1]) ∨
    (opClass op = 0xF ∧ opNN op ∉ [0x07, 0x0A, 0x15, 0x18, 0x1E, 0x29, 0x33, 0x55, 0x65])

/-- Bits the key does not include do not matter (R67). That op[11:8] of class 0 is among them is the spec's decision D12
(log entry 14). -/
def Obligations.IgnoredBitsDecodeAlike : Prop :=
  ∀ (x y y' : RegIdx) (u : BitVec 4) (s : State),
    decodeWord (encXK 0x0 x 0xE0) = .cls ∧ decodeWord (encXK 0x0 x 0xEE) = .ret ∧
    decodeWord (encXYN 0x5 x y u) = .seVxVy x y ∧ decodeWord (encXYN 0x9 x y u) = .sneVxVy x y ∧
    exec (.shrVx x y) s = exec (.shrVx x y') s ∧ exec (.shlVx x y) s = exec (.shlVx x y') s

/-! ## The cycle -/

/-- R60: a step fetches the word at PC, advances PC by 2, runs the decoded instruction on that state and, in TIMER_MODE
per_cycle, ticks the timers; if the instruction faults or is refused, so is the step, and nothing is committed. Around exec
the model also numbers the random draw (log entry 2) and, in separate mode, clears TONE (log entry 16). Outside the default
switches the premise is that no strict check stops the cycle. -/
def Obligations.StepRunsDecodedInstruction : Prop :=
  ∀ (s : State) (i : Instr),
    decode [s.readByte s.pc.toNat, s.readByte (s.pc.toNat + 1)] = .ok (i, []) → i.wellFormed = true →
    (DefaultSwitches s ∨ (fetchCheck s = none ∧ decodeCheck s = none)) →
    (∀ t, exec i { s with pc := s.pc + 2 } = .next t →
      (s.cfg.timerMode = .perCycle → step s = .next { timerTick t with draws := t.draws + 1 }) ∧
      (s.cfg.timerMode = .separate → step s = .next { t with tone := false, draws := t.draws + 1 })) ∧
    (∀ f, exec i { s with pc := s.pc + 2 } = .fault f → step s = .fault f) ∧
    (∀ r, exec i { s with pc := s.pc + 2 } = .refused r → step s = .refused r)

/-- R68: a cycle that fetches an unknown opcode advances PC by 2 and, in TIMER_MODE per_cycle, ticks the timers; nothing
else changes. The instruction itself does nothing. -/
def Obligations.UnknownOpcodeCycle : Prop :=
  ∀ (s : State) (op : Word), exec (.unknown op) s = .next s ∧
    (fetchOpcode s = op → decodeWord op = .unknown op →
      (DefaultSwitches s ∨ (fetchCheck s = none ∧ decodeCheck s = none)) →
      (s.cfg.timerMode = .perCycle →
        step s = .next { timerTick s with pc := s.pc + 2, draws := s.draws + 1 }) ∧
      (s.cfg.timerMode = .separate →
        step s = .next { s with pc := s.pc + 2, tone := false, draws := s.draws + 1 }))

/-- R45: the opcode is the byte at PC in bits 15:8 and the byte after it in bits 7:0; after a load, the first byte of the
ROM is the high byte of the first instruction. -/
def Obligations.FetchIsBigEndian : Prop :=
  (∀ s : State, (fetchOpcode s).toNat =
    256 * (s.readByte s.pc.toNat).toNat + (s.readByte (s.pc.toNat + 1)).toNat) ∧
  (∀ (s : State) (hi lo : Byte) (rest : List Byte), rest.length ≤ 3582 →
    (fetchOpcode (hostLoad (hi :: lo :: rest) s)).toNat = 256 * hi.toNat + lo.toNat)

/-- R52, R44: a store is seen by the fetch of the next cycle at any address, odd, or across the top of memory; and the
word `withFetchWord` places is the one fetched. Rests on the wrap of decision D2 at address 0xFFF (log entry 6). -/
def Obligations.StoreSeenByNextFetch : Prop :=
  (∀ (s : State) (a : Addr) (hi lo : Byte), Memory.wf s.mem = true →
    fetchOpcode ((s.writeBytes a.toNat [hi, lo]).setPC a) = hi ++ lo) ∧
  (∀ (s : State) (w : Word), Memory.wf s.mem = true → fetchOpcode (s.withFetchWord 16 w.toNat) = w)

/-- R44 (decision D2, log entry 6): an address is reduced modulo 4096, for reads and for writes. -/
def Obligations.AddressesWrap : Prop :=
  ∀ (s : State) (a : Nat) (b : Byte),
    s.readByte (a + 4096) = s.readByte a ∧ s.writeBytes (a + 4096) [b] = s.writeBytes a [b] ∧
    (Memory.wf s.mem = true → (s.writeBytes a [b]).readByte (a % 4096) = b)

/-! ## Timers -/

/-- R170: a tick takes each nonzero timer down by one and leaves a zero one at zero; TONE is 1 exactly in the tick that
takes ST from 1 to 0; nothing else is touched. So after n ticks DT is DT - n, never below 0, and ST loaded with k gives its
one pulse at the k-th tick, none when k is 0. -/
def Obligations.TimerTickCountsDown : Prop :=
  ∀ s : State,
    (timerTick s).dt.toNat = s.dt.toNat - 1 ∧ (timerTick s).st.toNat = s.st.toNat - 1 ∧
    ((timerTick s).tone = true ↔ s.st = 1) ∧
    timerTick s = { s with dt := (timerTick s).dt, st := (timerTick s).st, tone := (timerTick s).tone } ∧
    ∀ n : Nat, (timerTick^[n] s).dt.toNat = s.dt.toNat - n ∧ (timerTick^[n] s).st.toNat = s.st.toNat - n ∧
      ((timerTick^[n + 1] s).tone = true ↔ s.st.toNat = n + 1)

/-- R171 (decision D15, log entry 15): the tick is the last part of a cycle in per_cycle mode, the host's own operation in
separate mode, where a cycle leaves DT and ST as its instruction left them and TONE 0 (log entry 16). -/
def Obligations.TickPlacement : Prop :=
  ∀ s : State,
    (s.cfg.timerMode = .separate → hostApply .tick s = .next (timerTick s)) ∧
    (s.cfg.timerMode = .perCycle → hostApply .tick s = .refused .tickNotSeparate) ∧
    ∀ t u : State, exec (decodeWord (fetchOpcode s)) (advance s) = .next u → step s = .next t →
      (s.cfg.timerMode = .separate → t.dt = u.dt ∧ t.st = u.st ∧ t.tone = false) ∧
      (s.cfg.timerMode = .perCycle →
        t.dt = (timerTick u).dt ∧ t.st = (timerTick u).st ∧ t.tone = (timerTick u).tone)

/-- R200: in per_cycle mode LD DT,Vx and LD ST,Vx leave V[X] - 1 (0 when V[X] is 0) at the end of their own cycle, TONE
is raised in that cycle exactly by LD ST,Vx with V[X] = 1, and LD Vx,DT reads DT before its own cycle's tick. -/
def Obligations.TimerWriteThenTick : Prop :=
  ∀ (s : State) (x : RegIdx), s.cfg.timerMode = .perCycle →
    (DefaultSwitches s ∨ (fetchCheck s = none ∧ decodeCheck s = none)) →
    (decodeWord (fetchOpcode s) = .ldDTVx x →
      ∃ t, step s = .next t ∧ t.dt.toNat = (s.getV x).toNat - 1 ∧ t.pc = s.pc + 2) ∧
    (decodeWord (fetchOpcode s) = .ldSTVx x →
      ∃ t, step s = .next t ∧ t.st.toNat = (s.getV x).toNat - 1 ∧ (t.tone = true ↔ s.getV x = 1)) ∧
    (decodeWord (fetchOpcode s) = .ldVxDT x →
      ∃ t, step s = .next t ∧ t.getV x = s.dt ∧ t.dt.toNat = s.dt.toNat - 1)

/-! ## Invariants and whole-machine rules -/

/-- Every step keeps the invariant: canonical memory, SP at most 16 (R16), bits 15:12 of every stack entry 0 (R21). -/
def Obligations.EveryStepKeepsInv : Prop :=
  ∀ s t : State, StateInv s → step s = .next t → StateInv t

/-- The invariant holds after reset. -/
def Obligations.ResetMeetsInv : Prop := StateInv State.reset

/-- Every host operation keeps the invariant, a load of any ROM included (R28, R190). -/
def Obligations.HostOperationsKeepInv : Prop :=
  ∀ (o : HostOp) (s t : State), StateInv s → hostApply o s = .next t → StateInv t

/-- Under the default switches and a legal SP, the faults are those of R162 and no others, each reporting the address and
the opcode of its instruction (R161), no step is refused, and every other step answers a next state. Rests on decisions D3
to D5 (log entries 7, 8). -/
def Obligations.FaultsAreComplete : Prop :=
  ∀ s : State, DefaultSwitches s → s.sp.toNat ≤ 16 →
    ((∃ nnn, decodeWord (fetchOpcode s) = .callAddr nnn) → s.sp = 16 →
      step s = .fault (.stackOverflow s.pc (fetchOpcode s))) ∧
    (decodeWord (fetchOpcode s) = .ret → s.sp = 0 → step s = .fault (.stackUnderflow s.pc (fetchOpcode s))) ∧
    (¬ FaultCondition s → ∃ t, step s = .next t) ∧
    (∀ r, step s ≠ .refused r)

/-- No cycle writes a key latch (R19; of LD Vx,K by the resolution of conflict C10, log entry 29) or a parameter of the
machine (that the parameters stand in State.cfg and no cycle writes them is the model's choice, log entry 1). -/
def Obligations.StepKeepsKeysAndParameters : Prop :=
  ∀ s t : State, step s = .next t → t.key = s.key ∧ t.cfg = s.cfg

/-- Only CLS and DRW change the framebuffer or the draw flag, they leave the draw flag 1, and no cycle clears it
(R20, R24, R139). -/
def Obligations.OnlyClsAndDrwTouchDisplay : Prop :=
  ∀ s t : State, step s = .next t →
    (s.df = true → t.df = true) ∧
    (decodeWord (fetchOpcode s) = .cls ∨ (∃ x y n, decodeWord (fetchOpcode s) = .drwVxVyN x y n) → t.df = true) ∧
    (t.fb ≠ s.fb ∨ t.df ≠ s.df →
      decodeWord (fetchOpcode s) = .cls ∨ ∃ x y n, decodeWord (fetchOpcode s) = .drwVxVyN x y n)

/-- A cycle changes a byte of memory only by FX33 or FX55, at an address the store touches (R41). That it touches I + k
modulo 4096 is decision D2 (log entry 6). -/
def Obligations.OnlyStoresChangeMemory : Prop :=
  ∀ (s t : State) (a : Nat), step s = .next t → t.readByte a ≠ s.readByte a →
    (∃ x, decodeWord (fetchOpcode s) = .ldBVx x ∧ Touches s.i.toNat 3 (memAddr a)) ∨
    (∃ x, decodeWord (fetchOpcode s) = .ldMemVx x ∧ Touches s.i.toNat (x.val + 1) (memAddr a))

/-- Only CALL (plus 1) and RET (minus 1) change SP, and only CALL changes a stack entry, the one at SP (R16, R21). -/
def Obligations.OnlyCallAndRetTouchStack : Prop :=
  ∀ s t : State, step s = .next t →
    (t.sp ≠ s.sp →
      (∃ nnn, decodeWord (fetchOpcode s) = .callAddr nnn ∧ t.sp.toNat = s.sp.toNat + 1) ∨
      (decodeWord (fetchOpcode s) = .ret ∧ t.sp.toNat + 1 = s.sp.toNat)) ∧
    (∀ k : Fin 16, t.stkAt k ≠ s.stkAt k →
      s.sp.toNat = k.val ∧ ∃ nnn, decodeWord (fetchOpcode s) = .callAddr nnn)

/-- The draw flag and the tone output gate nothing in the core (R194, R25): two states that differ only in them take the
same fault or refusal, or steps to states that differ only in the draw flag. -/
def Obligations.DrawFlagAndToneGateNothing : Prop :=
  ∀ (s : State) (d c : Bool),
    (∀ f, step s = .fault f → step { s with df := d, tone := c } = .fault f) ∧
    (∀ r, step s = .refused r → step { s with df := d, tone := c } = .refused r) ∧
    (∀ t, step s = .next t → ∃ t', step { s with df := d, tone := c } = .next t' ∧ t' = { t with df := t'.df })

/-! ## Reset and host operations -/

/-- The state after reset (R29, R185). The values of I, DT, ST and DF are decision D14 (log entry 4), the font bytes
decision D13 (log entry 3). -/
def Obligations.ResetState : Prop :=
  (∀ r : RegIdx, State.reset.getV r = 0) ∧ State.reset.i = 0 ∧ State.reset.pc = 0x200 ∧ State.reset.sp = 0 ∧
  (∀ k : Fin 16, State.reset.stkAt k = 0) ∧ State.reset.dt = 0 ∧ State.reset.st = 0 ∧
  (∀ k : Fin 16, State.reset.keyAt k = false) ∧
  (∀ x < 64, ∀ y < 32, State.reset.pixel x y = false) ∧ State.reset.df = true ∧ State.reset.tone = false ∧
  (∀ k : Fin 80, State.reset.readByte k.val = defaultFont[k]) ∧
  (∀ a, 80 ≤ a → a < 4096 → State.reset.readByte a = 0)

/-- Reset installs the machine's font, zeroes the rest of memory, and is total and idempotent: but for the machine's
parameters and the number of the random draw it depends on no earlier state (R185; log entry 28). -/
def Obligations.ResetIsTotal : Prop :=
  (∀ s t : State, s.cfg = t.cfg → s.draws = t.draws → hostReset s = hostReset t) ∧
  (∀ s : State, hostReset (hostReset s) = hostReset s ∧ Memory.wf (hostReset s).mem = true ∧
    (∀ k : Fin 80, (hostReset s).readByte k.val = s.cfg.font[k]) ∧
    (∀ a, 80 ≤ a → a < 4096 → (hostReset s).readByte a = 0) ∧
    hostReset s = { State.reset with mem := (hostReset s).mem, cfg := s.cfg, draws := s.draws })

/-- R190: load resets first; more than 3584 bytes is RomTooLarge and leaves the machine reset; otherwise byte k is at
0x200 + k, the bytes above are zero and all other state is the reset state; no bytes at all equals a reset. -/
def Obligations.LoadCopiesRom : Prop :=
  ∀ (bytes : List Byte) (s : State),
    hostApply (.load bytes) s = .next (hostLoad bytes s) ∧
    (3584 < bytes.length → loadError bytes = some .romTooLarge ∧ hostLoad bytes s = hostReset s) ∧
    (bytes.length ≤ 3584 → loadError bytes = none ∧
      (∀ (k : Nat) (h : k < bytes.length), (hostLoad bytes s).readByte (0x200 + k) = bytes[k]) ∧
      (∀ a, 0x200 + bytes.length ≤ a → a < 4096 → (hostLoad bytes s).readByte a = 0) ∧
      (∀ a, a < 0x200 → (hostLoad bytes s).readByte a = (hostReset s).readByte a) ∧
      hostLoad bytes s = { hostReset s with mem := (hostLoad bytes s).mem }) ∧
    hostLoad [] s = hostReset s

/-- R193: set_key writes the one latch it names and nothing else; the latch keeps its value through every cycle and every
other operation of the host until the next set_key of it, or the next reset or load, which release it. -/
def Obligations.SetKeyWritesOneLatch : Prop :=
  ∀ (s : State) (k : Fin 16) (p : Bool),
    ∃ t, hostApply (.setKey k.val p) s = .next t ∧ t.keyAt k = p ∧
      (∀ j : Fin 16, j ≠ k → t.keyAt j = s.keyAt j) ∧ t = { s with key := t.key } ∧
      (∀ (o : HostOp) (u : State), o ≠ .reset → (∀ bytes, o ≠ .load bytes) → (∀ q, o ≠ .setKey k.val q) →
        hostApply o t = .next u → u.keyAt k = p) ∧
      (hostReset t).keyAt k = false ∧ (∀ bytes, (hostLoad bytes t).keyAt k = false)

/-- The other host operations: clear_df clears DF and nothing else (R194); an index above 15 in set_key is refused
(decision D23); display[k] is the pixel (k mod 64, k div 64) (R195; decision D8, log entry 11). -/
def Obligations.ClearDrawFlagAndReadBack : Prop :=
  ∀ (s : State) (k : Nat) (p : Bool),
    hostApply .clearDF s = .next { s with df := false } ∧
    (16 ≤ k → hostApply (.setKey k p) s = .refused .setKeyIndex) ∧
    (∀ x < 64, ∀ y < 32, s.display (x + 64 * y) = s.pixel x y)

/-- A stopped program (R199; decision D22, log entry 30) stays stopped, and its cycles change only the timers and TONE
(beside the model's number of the draw). -/
def Obligations.StoppedStaysStopped : Prop :=
  ∀ s : State, Stopped s → (DefaultSwitches s ∨ (fetchCheck s = none ∧ decodeCheck s = none)) →
    ∃ t, step s = .next t ∧ Stopped t ∧
      t = { s with dt := t.dt, st := t.st, tone := t.tone, draws := s.draws + 1 }

/-! ## Register loads, arithmetic, logic, random -/

/-- R100: 6XNN is LD Vx,NN; V[X] receives NN, VF too when X = F, and nothing else changes. -/
def Obligations.LdVxNNLoadsConstant : Prop :=
  ∀ (x : RegIdx) (nn : Byte) (s : State), decodeWord (encXK 0x6 x nn) = .ldVxNN x nn ∧
    ∃ t, exec (.ldVxNN x nn) s = .next t ∧ t.getV x = nn ∧ OnlyRegs [x] s t

/-- R101: 7XNN is ADD Vx,NN; V[X] receives the sum modulo 256, no flag is set, and nothing else changes. -/
def Obligations.AddVxNNWrapsWithoutFlag : Prop :=
  ∀ (x : RegIdx) (nn : Byte) (s : State), decodeWord (encXK 0x7 x nn) = .addVxNN x nn ∧
    ∃ t, exec (.addVxNN x nn) s = .next t ∧ (t.getV x).toNat = ((s.getV x).toNat + nn.toNat) % 256 ∧
      OnlyRegs [x] s t

/-- R105 to R108: 8XY0 to 8XY3 are the copy, OR, AND and XOR of V[X] and V[Y] into V[X], bit by bit; no flag is set or
cleared and nothing else changes. -/
def Obligations.CopyAndLogic : Prop :=
  ∀ (x y : RegIdx) (s : State),
    (decodeWord (encXYN 0x8 x y 0x0) = .ldVxVy x y ∧ decodeWord (encXYN 0x8 x y 0x1) = .orVxVy x y ∧
      decodeWord (encXYN 0x8 x y 0x2) = .andVxVy x y ∧ decodeWord (encXYN 0x8 x y 0x3) = .xorVxVy x y) ∧
    (∃ t, exec (.ldVxVy x y) s = .next t ∧ t.getV x = s.getV y ∧ OnlyRegs [x] s t) ∧
    (∃ t, exec (.orVxVy x y) s = .next t ∧ OnlyRegs [x] s t ∧
      ∀ k < 8, (t.getV x).getLsbD k = ((s.getV x).getLsbD k || (s.getV y).getLsbD k)) ∧
    (∃ t, exec (.andVxVy x y) s = .next t ∧ OnlyRegs [x] s t ∧
      ∀ k < 8, (t.getV x).getLsbD k = ((s.getV x).getLsbD k && (s.getV y).getLsbD k)) ∧
    (∃ t, exec (.xorVxVy x y) s = .next t ∧ OnlyRegs [x] s t ∧
      ∀ k < 8, (t.getV x).getLsbD k = ((s.getV x).getLsbD k ^^ (s.getV y).getLsbD k))

/-- R109 with R104: VF receives the carry of the registers before; V[X] the sum modulo 256 of the registers after that
write, for every X and Y, VF included. The order is decisions D10, D11 (log entry 13). -/
def Obligations.AddVxVyCarry : Prop :=
  ∀ (x y : RegIdx) (s : State), (s.cfg.vfAlias = .literal ∨ (x ≠ VF ∧ y ≠ VF)) →
    ∃ t f a b, exec (.addVxVy x y) s = .next t ∧
      f = (if (s.getV x).toNat + (s.getV y).toNat > 255 then 1 else 0) ∧
      a = (if x = VF then f else (s.getV x).toNat) ∧ b = (if y = VF then f else (s.getV y).toNat) ∧
      (t.getV x).toNat = (a + b) % 256 ∧ (x ≠ VF → (t.getV VF).toNat = f) ∧ OnlyRegs [x, VF] s t

/-- R110, R112 with R104: VF receives 1 when there is no borrow, from the registers before; V[X] the difference modulo 256
of the registers after that write, for every X and Y, VF included. The order is decision D10 (log entry 13). -/
def Obligations.SubAndSubnNoBorrow : Prop :=
  ∀ (x y : RegIdx) (s : State), (s.cfg.vfAlias = .literal ∨ (x ≠ VF ∧ y ≠ VF)) →
    (∃ t f a b, exec (.subVxVy x y) s = .next t ∧
      f = (if (s.getV x).toNat ≥ (s.getV y).toNat then 1 else 0) ∧
      a = (if x = VF then f else (s.getV x).toNat) ∧ b = (if y = VF then f else (s.getV y).toNat) ∧
      (t.getV x).toNat = (a + 256 - b) % 256 ∧ (x ≠ VF → (t.getV VF).toNat = f) ∧ OnlyRegs [x, VF] s t) ∧
    (∃ t f a b, exec (.subnVxVy x y) s = .next t ∧
      f = (if (s.getV y).toNat ≥ (s.getV x).toNat then 1 else 0) ∧
      a = (if x = VF then f else (s.getV x).toNat) ∧ b = (if y = VF then f else (s.getV y).toNat) ∧
      (t.getV x).toNat = (b + 256 - a) % 256 ∧ (x ≠ VF → (t.getV VF).toNat = f) ∧ OnlyRegs [x, VF] s t)

/-- R111, R113 with R104: VF receives the bit shifted out of V[X]; V[X], or VF's new value when X = F, is shifted by one;
V[Y] is neither read nor written. The order is decision D10 (log entry 13). -/
def Obligations.ShrAndShlByOne : Prop :=
  ∀ (x y : RegIdx) (s : State), (s.cfg.vfAlias = .literal ∨ x ≠ VF) →
    (∃ t f a, exec (.shrVx x y) s = .next t ∧ f = (s.getV x).toNat % 2 ∧
      a = (if x = VF then f else (s.getV x).toNat) ∧
      (t.getV x).toNat = a / 2 ∧ (x ≠ VF → (t.getV VF).toNat = f) ∧ OnlyRegs [x, VF] s t) ∧
    (∃ t f a, exec (.shlVx x y) s = .next t ∧ f = (s.getV x).toNat / 128 ∧
      a = (if x = VF then f else (s.getV x).toNat) ∧
      (t.getV x).toNat = a * 2 % 256 ∧ (x ≠ VF → (t.getV VF).toNat = f) ∧ OnlyRegs [x, VF] s t)

/-- R114: V[X] receives the cycle's random byte ANDed with NN, so every bit that is 0 in NN is 0; the random byte is the
free value of decision D17 (log entry 2), whatever it is. Nothing else changes. -/
def Obligations.RndIsMasked : Prop :=
  ∀ (x : RegIdx) (nn : Byte) (s : State),
    ∃ t, exec (.rndVxNN x nn) s = .next t ∧ OnlyRegs [x] s t ∧
      (∀ k < 8, (t.getV x).getLsbD k = ((Config.rnd s.draws).getLsbD k && nn.getLsbD k)) ∧
      (nn = 0 → t.getV x = 0)

/-! ## Index register and memory -/

/-- R120: ANNN is LD I,addr; I receives NNN zero-extended, and nothing else changes. -/
def Obligations.LdIAddrLoadsAddress : Prop :=
  ∀ (nnn : Addr) (s : State), decodeWord (encA 0xA nnn) = .ldIAddr nnn ∧
    ∃ t, exec (.ldIAddr nnn) s = .next t ∧ t.i.toNat = nnn.toNat ∧ OnlyI s t

/-- R121: I receives the sum modulo 65536, VF 1 exactly when the true sum exceeds 0xFFF, both from the state before, for
X = F too. The 16-bit wrap is decision D19 (log entry 18). -/
def Obligations.AddIVxFlagsOverrun : Prop :=
  ∀ (x : RegIdx) (s : State),
    ∃ t, exec (.addIVx x) s = .next t ∧ t.i.toNat = (s.i.toNat + (s.getV x).toNat) % 65536 ∧
      (t.getV VF).toNat = (if s.i.toNat + (s.getV x).toNat > 0xFFF then 1 else 0) ∧
      SameRegsBut [VF] s t ∧ SameMemory s t ∧ t = { s with v := t.v, i := t.i }

/-- R122: FX29 is LD F,Vx; I receives five times the whole 8-bit register, and nothing else changes. -/
def Obligations.LdFVxPointsAtGlyph : Prop :=
  ∀ (x : RegIdx) (s : State), decodeWord (encXK 0xF x 0x29) = .ldFVx x ∧
    ∃ t, exec (.ldFVx x) s = .next t ∧ t.i.toNat = (s.getV x).toNat * 5 ∧ OnlyI s t

/-- R123: the hundreds, tens and units of V[X] go to memory at I, I + 1, I + 2, each address reduced modulo 4096 (R44;
decision D2, log entry 6); I, the registers and every other byte are unchanged. -/
def Obligations.LdBVxStoresDigits : Prop :=
  ∀ (x : RegIdx) (s : State), Memory.wf s.mem = true →
    (s.cfg.addrOverrun = .wrap ∨ s.i.toNat + 2 ≤ 0xFFF) →
    ∃ t, exec (.ldBVx x) s = .next t ∧
      (t.readByte s.i.toNat).toNat = (s.getV x).toNat / 100 ∧
      (t.readByte (s.i.toNat + 1)).toNat = (s.getV x).toNat / 10 % 10 ∧
      (t.readByte (s.i.toNat + 2)).toNat = (s.getV x).toNat % 10 ∧
      (∀ a, ¬ Touches s.i.toNat 3 (memAddr a) → t.readByte a = s.readByte a) ∧
      (∀ r, t.getV r = s.getV r) ∧ t = { s with mem := t.mem }

/-- R124: V[0] to V[X] go to memory at I, I + 1, ..., each address reduced modulo 4096 (R44; decision D2, log entry 6), and
I becomes I + X + 1 modulo 65536 (decision D19, log entry 18); the registers and every other byte are unchanged. -/
def Obligations.LdMemVxStoresRegisters : Prop :=
  ∀ (x : RegIdx) (s : State), Memory.wf s.mem = true →
    (s.cfg.addrOverrun = .wrap ∨ s.i.toNat + x.val ≤ 0xFFF) →
    ∃ t, exec (.ldMemVx x) s = .next t ∧
      (∀ r : RegIdx, r ≤ x → t.readByte (s.i.toNat + r.val) = s.getV r) ∧
      (∀ a, ¬ Touches s.i.toNat (x.val + 1) (memAddr a) → t.readByte a = s.readByte a) ∧
      t.i.toNat = (s.i.toNat + x.val + 1) % 65536 ∧
      (∀ r, t.getV r = s.getV r) ∧ t = { s with mem := t.mem, i := t.i }

/-- R125: V[0] to V[X] receive the bytes at I, I + 1, ..., each address reduced modulo 4096 (R44; decision D2, log entry 6),
and I becomes I + X + 1 modulo 65536 (decision D19, log entry 18); the other registers and memory are unchanged. -/
def Obligations.LdVxMemLoadsRegisters : Prop :=
  ∀ (x : RegIdx) (s : State), (s.cfg.addrOverrun = .wrap ∨ s.i.toNat + x.val ≤ 0xFFF) →
    ∃ t, exec (.ldVxMem x) s = .next t ∧
      (∀ r : RegIdx, r ≤ x → t.getV r = s.readByte (s.i.toNat + r.val)) ∧
      (∀ r : RegIdx, x < r → t.getV r = s.getV r) ∧
      t.i.toNat = (s.i.toNat + x.val + 1) % 65536 ∧
      SameMemory s t ∧ t = { s with v := t.v, i := t.i }

/-- The source's round trip (95_test_vectors.md S9): storing V[0..X] and loading them back with the same I gives the
original values, and I ends at I + X + 1 both times, modulo 65536 (decision D19, log entry 18); also across the top of
memory (decision D2, log entry 6). -/
def Obligations.StoreLoadRoundTrip : Prop :=
  ∀ (x : RegIdx) (s t u : State), Memory.wf s.mem = true →
    exec (.ldMemVx x) s = .next t → u.mem = t.mem → u.i = s.i → u.cfg = s.cfg →
    t.i.toNat = (s.i.toNat + x.val + 1) % 65536 ∧
    ∃ w, exec (.ldVxMem x) u = .next w ∧ (∀ r : RegIdx, r ≤ x → w.getV r = s.getV r) ∧
      w.i.toNat = (s.i.toNat + x.val + 1) % 65536

/-! ## Control flow -/

/-- R81: 1NNN is JP addr; PC receives NNN, any NNN, the next fetch is there, and nothing else changes. -/
def Obligations.JpAddrJumps : Prop :=
  ∀ (nnn : Addr) (s : State), decodeWord (encA 0x1 nnn) = .jpAddr nnn ∧
    ∃ t, exec (.jpAddr nnn) s = .next t ∧ t.pc = nnn ∧ fetchOpcode t = s.readWord nnn.toNat ∧ OnlyPC s t

/-- R88: PC receives NNN + V[0] modulo 4096 (the 12-bit PC is decision D1, log entry 5), and nothing else changes. -/
def Obligations.JpV0AddrAddsV0 : Prop :=
  ∀ (nnn : Addr) (s : State), (s.cfg.pcOverrun = .wrap ∨ nnn.toNat + (s.getV 0).toNat ≤ 0xFFF) →
    ∃ t, exec (.jpV0Addr nnn) s = .next t ∧ t.pc.toNat = (nnn.toNat + (s.getV 0).toNat) % 4096 ∧ OnlyPC s t

/-- R82: with room on the stack, CALL stores PC, the address after it, at STK[SP], adds 1 to SP and jumps, and nothing
else changes; with SP = 16 it is the fault StackOverflow (decision D3, log entry 7). With an SP above 16, which no run
reaches, it stops under the model's own name (log entry 7). -/
def Obligations.CallAddrPushes : Prop :=
  ∀ (nnn : Addr) (s : State),
    (s.sp.toNat < 16 → ∃ t, exec (.callAddr nnn) s = .next t ∧ t.pc = nnn ∧ t.sp.toNat = s.sp.toNat + 1 ∧
      (∀ k : Fin 16, (t.stkAt k).toNat = if k.val = s.sp.toNat then s.pc.toNat else (s.stkAt k).toNat) ∧
      (∀ r, t.getV r = s.getV r) ∧ SameMemory s t ∧ t = { s with pc := t.pc, sp := t.sp, stk := t.stk }) ∧
    (s.sp = 16 →
      exec (.callAddr nnn) s = .fault (.stackOverflow (s.pc - 2) (s.readWord (s.pc - 2).toNat))) ∧
    (16 < s.sp.toNat →
      exec (.callAddr nnn) s = .fault (.stackPointerInvalid (s.pc - 2) (s.readWord (s.pc - 2).toNat)))

/-- R80: RET takes 1 from SP and jumps to the low 12 bits of the entry there, which keeps its value, and nothing else
changes; with SP = 0 it is the fault StackUnderflow (decision D4, log entry 7). With an SP above 16, which no run reaches,
it stops under the model's own name (log entry 7). -/
def Obligations.RetPops : Prop :=
  ∀ s : State,
    (∀ k : Fin 16, s.sp.toNat = k.val + 1 → ∃ t, exec .ret s = .next t ∧
      t.pc.toNat = (s.stkAt k).toNat % 4096 ∧ t.sp.toNat = k.val ∧
      (∀ r, t.getV r = s.getV r) ∧ SameMemory s t ∧ t = { s with pc := t.pc, sp := t.sp }) ∧
    (s.sp = 0 → exec .ret s = .fault (.stackUnderflow (s.pc - 2) (s.readWord (s.pc - 2).toNat))) ∧
    (16 < s.sp.toNat →
      exec .ret s = .fault (.stackPointerInvalid (s.pc - 2) (s.readWord (s.pc - 2).toNat)))

/-- The source's property (95_test_vectors.md S7): a RET at the stack depth a CALL left restores PC to the address after
the CALL, and SP. -/
def Obligations.CallThenRetRestores : Prop :=
  ∀ (nnn : Addr) (s t u : State), exec (.callAddr nnn) s = .next t → u.sp = t.sp → u.stk = t.stk →
    ∃ w, exec .ret u = .next w ∧ w.pc = s.pc ∧ w.sp = s.sp

/-- R83 to R87: SE skips when equal and SNE when not equal, comparing all 8 bits with NN or V[Y]; a skip adds 2 to PC
modulo 4096, and nothing else changes. That SE means equal is general knowledge (G4, log entry 20). -/
def Obligations.RegisterSkips : Prop :=
  ∀ (x y : RegIdx) (nn : Byte) (s : State), (s.cfg.pcOverrun = .wrap ∨ s.pc.toNat + 2 ≤ 0xFFF) →
    (∃ t, exec (.seVxNN x nn) s = .next t ∧ OnlyPC s t ∧
      t.pc.toNat = if (s.getV x).toNat = nn.toNat then (s.pc.toNat + 2) % 4096 else s.pc.toNat) ∧
    (∃ t, exec (.sneVxNN x nn) s = .next t ∧ OnlyPC s t ∧
      t.pc.toNat = if (s.getV x).toNat = nn.toNat then s.pc.toNat else (s.pc.toNat + 2) % 4096) ∧
    (∃ t, exec (.seVxVy x y) s = .next t ∧ OnlyPC s t ∧
      t.pc.toNat = if (s.getV x).toNat = (s.getV y).toNat then (s.pc.toNat + 2) % 4096 else s.pc.toNat) ∧
    (∃ t, exec (.sneVxVy x y) s = .next t ∧ OnlyPC s t ∧
      t.pc.toNat = if (s.getV x).toNat = (s.getV y).toNat then s.pc.toNat else (s.pc.toNat + 2) % 4096)

/-- R87: a skip whose condition is false writes nothing, whatever PC and the switches are. -/
def Obligations.UntakenSkipsDoNothing : Prop :=
  ∀ (x y : RegIdx) (nn : Byte) (s : State),
    (s.getV x ≠ nn → exec (.seVxNN x nn) s = .next s) ∧ (s.getV x = nn → exec (.sneVxNN x nn) s = .next s) ∧
    (s.getV x ≠ s.getV y → exec (.seVxVy x y) s = .next s) ∧
    (s.getV x = s.getV y → exec (.sneVxVy x y) s = .next s)

/-! ## Keypad and timers -/

/-- R145, R146, R151: SKP skips when the key numbered by the low 4 bits of V[X] is pressed, SKNP when it is not; nothing
else changes. The low 4 bits are decision D9 (log entry 12). -/
def Obligations.KeySkips : Prop :=
  ∀ (x : RegIdx) (k : Fin 16) (s : State), k.val = (s.getV x).toNat % 16 →
    (s.cfg.keyIndex = .low4 ∨ (s.getV x).toNat ≤ 15) →
    ((s.cfg.pcOverrun = .wrap ∨ s.pc.toNat + 2 ≤ 0xFFF ∨ s.keyAt k = false) →
      ∃ t, exec (.skpVx x) s = .next t ∧ OnlyPC s t ∧
        t.pc.toNat = if s.keyAt k = true then (s.pc.toNat + 2) % 4096 else s.pc.toNat) ∧
    ((s.cfg.pcOverrun = .wrap ∨ s.pc.toNat + 2 ≤ 0xFFF ∨ s.keyAt k = true) →
      ∃ t, exec (.sknpVx x) s = .next t ∧ OnlyPC s t ∧
        t.pc.toNat = if s.keyAt k = true then s.pc.toNat else (s.pc.toNat + 2) % 4096)

/-- R148: with no key pressed LD Vx,K takes 2 from PC, modulo 4096 (decision D1, log entry 5), and writes nothing else;
otherwise V[X] receives the least pressed key and nothing else changes. It writes no key latch (conflict C10, log entry
29). -/
def Obligations.LdVxKWaitsForKey : Prop :=
  ∀ (x : RegIdx) (s : State),
    ((∀ k : Fin 16, s.keyAt k = false) →
      ∃ t, exec (.ldVxK x) s = .next t ∧ t.pc.toNat = (s.pc.toNat + 4094) % 4096 ∧ OnlyPC s t) ∧
    (∀ k : Fin 16, s.keyAt k = true → (∀ j : Fin 16, j < k → s.keyAt j = false) →
      ∃ t, exec (.ldVxK x) s = .next t ∧ (t.getV x).toNat = k.val ∧ OnlyRegs [x] s t)

/-- R148: a waiting cycle is a full cycle: the step leaves PC where it was and changes only the timers and TONE (beside the
model's number of the draw). -/
def Obligations.WaitingCycleOnlyTicks : Prop :=
  ∀ (x : RegIdx) (s : State), decodeWord (fetchOpcode s) = .ldVxK x → (∀ k : Fin 16, s.keyAt k = false) →
    (DefaultSwitches s ∨ (fetchCheck s = none ∧ decodeCheck s = none)) →
    ∃ t, step s = .next t ∧ t = { s with dt := t.dt, st := t.st, tone := t.tone, draws := s.draws + 1 } ∧
      (s.cfg.timerMode = .perCycle → t.dt.toNat = s.dt.toNat - 1 ∧ t.st.toNat = s.st.toNat - 1)

/-- R147, R149, R150: the three timer accesses copy the register they name and change nothing else; the instruction itself
ticks nothing. -/
def Obligations.TimerAccess : Prop :=
  ∀ (x : RegIdx) (s : State),
    (∃ t, exec (.ldVxDT x) s = .next t ∧ t.getV x = s.dt ∧ OnlyRegs [x] s t) ∧
    (∃ t, exec (.ldDTVx x) s = .next t ∧ t.dt = s.getV x ∧ (∀ r, t.getV r = s.getV r) ∧ SameMemory s t ∧
      t = { s with dt := t.dt }) ∧
    (∃ t, exec (.ldSTVx x) s = .next t ∧ t.st = s.getV x ∧ (∀ r, t.getV r = s.getV r) ∧ SameMemory s t ∧
      t = { s with st := t.st })

/-! ## Display -/

/-- R135: 00E0 is CLS, whatever op[11:8] holds; every pixel becomes 0 and DF 1, and nothing else changes. -/
def Obligations.ClsClearsDisplay : Prop :=
  ∀ (u : RegIdx) (s : State), decodeWord (encXK 0x0 u 0xE0) = .cls ∧
    ∃ t, exec .cls s = .next t ∧ (∀ x < 64, ∀ y < 32, t.pixel x y = false) ∧ t.df = true ∧
      (∀ r, t.getV r = s.getV r) ∧ SameMemory s t ∧ t = { s with fb := t.fb, df := t.df }

/-- R136 to R138: each pixel of the screen is XORed with the sprite's bit on it, bits off the screen are clipped, VF is 1
exactly when some lit pixel was turned off, DF is 1, and nothing else changes. The origin is the registers before VF is
written (decision D7, log entry 10); clipping is decision D6 (log entry 9); bit and row order decision D8 (log entry 11). -/
def Obligations.DrwXorsSprite : Prop :=
  ∀ (x y : RegIdx) (n : Fin 16) (s : State),
    (s.cfg.drwVfCoord = .readFirst ∨ (x ≠ VF ∧ y ≠ VF)) →
    (s.cfg.addrOverrun = .wrap ∨ s.i.toNat + n.val ≤ 0x1000 ∨ n = 0) →
    (s.cfg.drwOffscreen = .clip ∨
      ∀ i j, SpriteCovers s (s.getV x).toNat (s.getV y).toNat n.val i j → i < 64 ∧ j < 32) →
    ∃ t, exec (.drwVxVyN x y n) s = .next t ∧
      (∀ i < 64, ∀ j < 32, t.pixel i j = true ↔
        ¬ (s.pixel i j = true ↔ SpriteCovers s (s.getV x).toNat (s.getV y).toNat n.val i j)) ∧
      ((∃ i < 64, ∃ j < 32, s.pixel i j = true ∧ SpriteCovers s (s.getV x).toNat (s.getV y).toNat n.val i j) →
        t.getV VF = 1) ∧
      ((¬ ∃ i < 64, ∃ j < 32, s.pixel i j = true ∧ SpriteCovers s (s.getV x).toNat (s.getV y).toNat n.val i j) →
        t.getV VF = 0) ∧
      t.df = true ∧ SameRegsBut [VF] s t ∧ SameMemory s t ∧ t = { s with v := t.v, fb := t.fb, df := t.df }

/-- Drawing the same sprite twice at the same place restores every pixel; VF is 1 after the second draw exactly when the
sprite covers a pixel of the screen that was off before the first (95_test_vectors.md S6). The VF clause follows the
pseudocode of R136, by which only a pixel going from 1 to 0 sets VF; R136's own sentence on a second draw (VF = 1 if the
sprite has any set bit inside the screen) says otherwise when every covered pixel was lit before the first. That only
pixels of the screen count is decision D6 (log entry 9); which pixels the sprite covers rests on the bit and row order of
decision D8 (log entry 11) and, for its bytes, on the address wrap of decision D2 (log entry 6). -/
def Obligations.DrwTwiceRestores : Prop :=
  ∀ (x y : RegIdx) (n : Fin 16) (s t u : State), x ≠ VF → y ≠ VF →
    exec (.drwVxVyN x y n) s = .next t → exec (.drwVxVyN x y n) t = .next u →
    (∀ i < 64, ∀ j < 32, u.pixel i j = s.pixel i j) ∧
    (u.getV VF = 1 ↔ ∃ i < 64, ∃ j < 32, s.pixel i j = false ∧
      SpriteCovers s (s.getV x).toNat (s.getV y).toNat n.val i j)

/-! ## Strictness switches (00_scope.md R6; 93_implementation_defined.md U2 to U9) -/

/-- U2, U3: under ADDR_OVERRUN = fault an instruction that would touch a byte above 0xFFF faults with MemoryOverrun, and
the fetch at PC = 0xFFF too; under DRW_OFFSCREEN = fault a set sprite bit off the screen faults with DrawOutOfRange; under
both, a DRW that does either faults with one of the two. -/
def Obligations.StrictMemoryAndScreenFault : Prop :=
  ∀ (x y : RegIdx) (n : Fin 16) (s : State),
    (s.cfg.addrOverrun = .fault →
      (0xFFF < s.i.toNat + 2 →
        exec (.ldBVx x) s = .fault (.memoryOverrun (s.pc - 2) (s.readWord (s.pc - 2).toNat))) ∧
      (0xFFF < s.i.toNat + x.val →
        exec (.ldMemVx x) s = .fault (.memoryOverrun (s.pc - 2) (s.readWord (s.pc - 2).toNat)) ∧
        exec (.ldVxMem x) s = .fault (.memoryOverrun (s.pc - 2) (s.readWord (s.pc - 2).toNat))) ∧
      (s.cfg.drwOffscreen = .clip → (s.cfg.drwVfCoord = .readFirst ∨ (x ≠ VF ∧ y ≠ VF)) → n ≠ 0 →
        0x1000 < s.i.toNat + n.val →
        exec (.drwVxVyN x y n) s = .fault (.memoryOverrun (s.pc - 2) (s.readWord (s.pc - 2).toNat))) ∧
      (s.pc = 0xFFF → step s = .fault (.fetchOverrun s.pc))) ∧
    (s.cfg.drwOffscreen = .fault → s.cfg.addrOverrun = .wrap → (s.cfg.drwVfCoord = .readFirst ∨ (x ≠ VF ∧ y ≠ VF)) →
      (∃ i j, SpriteCovers s (s.getV x).toNat (s.getV y).toNat n.val i j ∧ ¬ (i < 64 ∧ j < 32)) →
      exec (.drwVxVyN x y n) s = .fault (.drawOutOfRange (s.pc - 2) (s.readWord (s.pc - 2).toNat))) ∧
    (s.cfg.drwOffscreen = .fault → s.cfg.addrOverrun = .fault → (s.cfg.drwVfCoord = .readFirst ∨ (x ≠ VF ∧ y ≠ VF)) →
      ((n ≠ 0 ∧ 0x1000 < s.i.toNat + n.val) ∨
        ∃ i j, SpriteCovers s (s.getV x).toNat (s.getV y).toNat n.val i j ∧ ¬ (i < 64 ∧ j < 32)) →
      exec (.drwVxVyN x y n) s = .fault (.memoryOverrun (s.pc - 2) (s.readWord (s.pc - 2).toNat)) ∨
      exec (.drwVxVyN x y n) s = .fault (.drawOutOfRange (s.pc - 2) (s.readWord (s.pc - 2).toNat)))

/-- U4, U5: under KEY_INDEX = fault a key number above 15 faults with KeyOutOfRange; under PC_OVERRUN = fault a taken skip,
JP V0 or the advance that would take PC above 0xFFF faults with PcOutOfRange, the advance also under ADDR_OVERRUN = fault
unless the fetch itself overruns (which StrictMemoryAndScreenFault states). -/
def Obligations.StrictKeyAndPcFault : Prop :=
  ∀ (x y : RegIdx) (nn : Byte) (k : Fin 16) (nnn : Addr) (s : State),
    (s.cfg.keyIndex = .fault → 15 < (s.getV x).toNat →
      exec (.skpVx x) s = .fault (.keyOutOfRange (s.pc - 2) (s.readWord (s.pc - 2).toNat)) ∧
      exec (.sknpVx x) s = .fault (.keyOutOfRange (s.pc - 2) (s.readWord (s.pc - 2).toNat))) ∧
    (s.cfg.pcOverrun = .fault →
      (0xFFF < s.pc.toNat + 2 →
        (s.getV x = nn → exec (.seVxNN x nn) s = .fault (.pcOutOfRange (s.pc - 2) (s.readWord (s.pc - 2).toNat))) ∧
        (s.getV x ≠ nn → exec (.sneVxNN x nn) s = .fault (.pcOutOfRange (s.pc - 2) (s.readWord (s.pc - 2).toNat))) ∧
        (s.getV x = s.getV y → exec (.seVxVy x y) s = .fault (.pcOutOfRange (s.pc - 2) (s.readWord (s.pc - 2).toNat))) ∧
        (s.getV x ≠ s.getV y → exec (.sneVxVy x y) s = .fault (.pcOutOfRange (s.pc - 2) (s.readWord (s.pc - 2).toNat))) ∧
        (k.val = (s.getV x).toNat % 16 → (s.cfg.keyIndex = .low4 ∨ (s.getV x).toNat ≤ 15) →
          (s.keyAt k = true → exec (.skpVx x) s = .fault (.pcOutOfRange (s.pc - 2) (s.readWord (s.pc - 2).toNat))) ∧
          (s.keyAt k = false → exec (.sknpVx x) s = .fault (.pcOutOfRange (s.pc - 2) (s.readWord (s.pc - 2).toNat))))) ∧
      (0xFFF < nnn.toNat + (s.getV 0).toNat →
        exec (.jpV0Addr nnn) s = .fault (.pcOutOfRange (s.pc - 2) (s.readWord (s.pc - 2).toNat))) ∧
      ((s.cfg.addrOverrun = .wrap ∨ s.pc.toNat + 1 ≤ 0xFFF) → 0xFFF < s.pc.toNat + 2 →
        step s = .fault (.pcOutOfRange s.pc (fetchOpcode s))))

/-- U6, U7, U9: under VF_ALIAS = refuse the flag-writing arithmetic instructions with VF as an operand are refused, under
DRW_VF_COORD = refuse DRW with VF as a coordinate, under NONCANONICAL = refuse a cycle that fetches a word whose ignored
bits are not zero. -/
def Obligations.StrictAliasesRefused : Prop :=
  ∀ (x y : RegIdx) (n : Fin 16) (s : State),
    (s.cfg.vfAlias = .refuse →
      (x = VF ∨ y = VF → exec (.addVxVy x y) s = .refused .vfAlias ∧ exec (.subVxVy x y) s = .refused .vfAlias ∧
        exec (.subnVxVy x y) s = .refused .vfAlias) ∧
      (x = VF → exec (.shrVx x y) s = .refused .vfAlias ∧ exec (.shlVx x y) s = .refused .vfAlias)) ∧
    (s.cfg.drwVfCoord = .refuse → (x = VF ∨ y = VF) → exec (.drwVxVyN x y n) s = .refused .drwVfCoord) ∧
    (s.cfg.nonCanonical = .refuse → (s.cfg.addrOverrun = .wrap ∨ s.pc.toNat + 1 ≤ 0xFFF) →
      (s.cfg.pcOverrun = .wrap ∨ s.pc.toNat + 2 ≤ 0xFFF) →
      canonical (fetchOpcode s) = false → step s = .refused .nonCanonical)
end

