-- ==== Sys2Proof/Laws/Memory.lean ====
section
/-! SUPPORT. Laws of memory: a read after a write, and that every memory operation keeps the canonical form. -/

namespace Sys2Proof.Machine

theorem memAddr_lt (a : Nat) : memAddr a < memSize := Nat.mod_lt _ (by decide)

/-- A write leaves every other address alone, in any list of cells. -/
theorem read_write_ne {a b : Nat} (h : b ≠ a) (x : Byte) (m : Memory) :
    Memory.read (Memory.write m a x) b = Memory.read m b := by
  induction m with
  | nil => simp only [Memory.write]; split <;> simp [Memory.read, h]
  | cons c m ih =>
    obtain ⟨k, w⟩ := c
    simp only [Memory.write]
    repeat' split
    all_goals first | rfl | (simp [Memory.read, h]; done) | skip
    · rename_i e _; subst e; simp [Memory.read, h]
    · rename_i e _; subst e; simp [Memory.read, h]
    · simp only [Memory.read, ih]

/-- An address below every entry reads as the reset contents. -/
theorem read_of_wfFrom {lo a : Nat} {m : Memory} (h : Memory.wfFrom lo m = true) (ha : a < lo) :
    Memory.read m a = Memory.initial a := by
  induction m generalizing lo with
  | nil => rfl
  | cons c m ih =>
    obtain ⟨k, w⟩ := c
    simp only [Memory.wfFrom, Bool.and_eq_true, decide_eq_true_eq] at h
    have : a ≠ k := by omega
    simp only [Memory.read, this, if_false]
    exact ih h.2 (by omega)

theorem wfFrom_mono {lo lo' : Nat} (hl : lo' ≤ lo) {m : Memory} (h : Memory.wfFrom lo m = true) :
    Memory.wfFrom lo' m = true := by
  cases m with
  | nil => rfl
  | cons c m =>
    obtain ⟨k, w⟩ := c
    simp only [Memory.wfFrom, Bool.and_eq_true, decide_eq_true_eq] at h ⊢
    exact ⟨⟨⟨by omega, h.1.1.2⟩, h.1.2⟩, h.2⟩

/-- A read of the address just written gives the byte written, in canonical memory. -/
theorem read_write_self_from {lo : Nat} (a : Nat) (x : Byte) {m : Memory} (h : Memory.wfFrom lo m = true) :
    Memory.read (Memory.write m a x) a = x := by
  induction m generalizing lo with
  | nil =>
    simp only [Memory.write]
    split
    · rename_i e; simp [Memory.read, e]
    · simp [Memory.read]
  | cons c m ih =>
    obtain ⟨k, w⟩ := c
    have hm := h
    simp only [Memory.wfFrom, Bool.and_eq_true, decide_eq_true_eq] at hm
    simp only [Memory.write]
    split
    · split
      · rename_i hlt e
        have : a ≠ k := by omega
        simp only [Memory.read, this, if_false, e]
        exact read_of_wfFrom hm.2 (by omega)
      · simp [Memory.read]
    · split
      · rename_i e
        subst e
        split
        · rename_i e; rw [e]; exact read_of_wfFrom hm.2 (by omega)
        · simp [Memory.read]
      · rename_i hne
        simp only [Memory.read, hne, if_false]
        exact ih hm.2

theorem read_write_self {m : Memory} (h : Memory.wf m = true) (a : Nat) (x : Byte) :
    Memory.read (Memory.write m a x) a = x := read_write_self_from a x h

/-- A write keeps the canonical form. -/
theorem wfFrom_write {lo a : Nat} (ha : lo ≤ a) (hs : a < memSize) (x : Byte) {m : Memory}
    (h : Memory.wfFrom lo m = true) : Memory.wfFrom lo (Memory.write m a x) = true := by
  induction m generalizing lo with
  | nil =>
    simp only [Memory.write]
    split
    · rfl
    · simp_all [Memory.wfFrom]
  | cons c m ih =>
    obtain ⟨k, w⟩ := c
    have hm := h
    simp only [Memory.wfFrom, Bool.and_eq_true, decide_eq_true_eq] at hm
    simp only [Memory.write]
    split
    · split
      · exact h
      · simp only [Memory.wfFrom, Bool.and_eq_true, decide_eq_true_eq]
        exact ⟨⟨⟨ha, hs⟩, by simpa⟩, ⟨⟨by omega, hm.1.1.2⟩, hm.1.2⟩, hm.2⟩
    · split
      · rename_i e
        subst e
        split
        · exact wfFrom_mono (by omega) hm.2
        · simp only [Memory.wfFrom, Bool.and_eq_true, decide_eq_true_eq]
          exact ⟨⟨⟨ha, hs⟩, by simpa⟩, hm.2⟩
      · simp only [Memory.wfFrom, Bool.and_eq_true, decide_eq_true_eq]
        exact ⟨hm.1, ih (by omega) hm.2⟩

theorem wf_write {m : Memory} (h : Memory.wf m = true) (a : Nat) (x : Byte) :
    Memory.wf (Memory.write m (memAddr a) x) = true := wfFrom_write (Nat.zero_le _) (memAddr_lt a) x h

/-- MemWrite keeps the canonical form. -/
theorem wf_writeBytes (bs : List Byte) {m : Memory} (h : Memory.wf m = true) (a : Nat) :
    Memory.wf (Memory.writeBytes m a bs) = true := by
  induction bs generalizing m a with
  | nil => exact h
  | cons x xs ih => exact ih (wf_write h a x) (a + 1)

/-- MemWrite leaves every address it does not touch alone. -/
theorem read_writeBytes_outside (bs : List Byte) (m : Memory) (a b : Nat)
    (h : ∀ k, k < bs.length → b ≠ memAddr (a + k)) :
    Memory.read (Memory.writeBytes m a bs) b = Memory.read m b := by
  induction bs generalizing m a with
  | nil => rfl
  | cons x xs ih =>
    simp only [Memory.writeBytes]
    rw [ih]
    · exact read_write_ne (h 0 (by simp)) x m
    · intro k hk
      have := h (k + 1) (by simpa using hk)
      rwa [show a + 1 + k = a + (k + 1) by omega]

/-- MemWrite of at most 4096 bytes stores each byte at its address. -/
theorem read_writeBytes_inside (bs : List Byte) {m : Memory} (hm : Memory.wf m = true) (a k : Nat)
    (hk : k < bs.length) (hl : bs.length ≤ memSize) :
    Memory.read (Memory.writeBytes m a bs) (memAddr (a + k)) = bs[k] := by
  induction bs generalizing m a k with
  | nil => simp at hk
  | cons x xs ih =>
    simp only [Memory.writeBytes]
    cases k with
    | zero =>
      rw [read_writeBytes_outside]
      · simpa using read_write_self hm (memAddr a) x
      · intro j hj
        simp only [memAddr, memSize, List.length_cons] at *
        omega
    | succ k =>
      have := ih (wf_write hm a x) (a + 1) k (by simpa using hk) (by simp at hl; omega)
      rw [show a + 1 + k = a + (k + 1) by omega] at this
      simpa using this

end Sys2Proof.Machine
end

