-- ==== Sys2Proof/Laws/State.lean ====
section
/-! SUPPORT. What each update of the state does to each field: one lemma per field and update, so that no proof unfolds a
record update; then the register and parameter reads through the updates. -/

namespace Sys2Proof.Machine

variable (s : State)

/-! ## setV -/

@[simp] theorem setV_v (x : RegIdx) (b : Byte) : (s.setV x b).v = s.v.set x b := rfl
@[simp] theorem setV_i (x : RegIdx) (b : Byte) : (s.setV x b).i = s.i := rfl
@[simp] theorem setV_pc (x : RegIdx) (b : Byte) : (s.setV x b).pc = s.pc := rfl
@[simp] theorem setV_sp (x : RegIdx) (b : Byte) : (s.setV x b).sp = s.sp := rfl
@[simp] theorem setV_stk (x : RegIdx) (b : Byte) : (s.setV x b).stk = s.stk := rfl
@[simp] theorem setV_dt (x : RegIdx) (b : Byte) : (s.setV x b).dt = s.dt := rfl
@[simp] theorem setV_st (x : RegIdx) (b : Byte) : (s.setV x b).st = s.st := rfl
@[simp] theorem setV_key (x : RegIdx) (b : Byte) : (s.setV x b).key = s.key := rfl
@[simp] theorem setV_fb (x : RegIdx) (b : Byte) : (s.setV x b).fb = s.fb := rfl
@[simp] theorem setV_df (x : RegIdx) (b : Byte) : (s.setV x b).df = s.df := rfl
@[simp] theorem setV_tone (x : RegIdx) (b : Byte) : (s.setV x b).tone = s.tone := rfl
@[simp] theorem setV_mem (x : RegIdx) (b : Byte) : (s.setV x b).mem = s.mem := rfl
@[simp] theorem setV_cfg (x : RegIdx) (b : Byte) : (s.setV x b).cfg = s.cfg := rfl
@[simp] theorem setV_draws (x : RegIdx) (b : Byte) : (s.setV x b).draws = s.draws := rfl

/-! ## setI -/

@[simp] theorem setI_v (w : Word) : (s.setI w).v = s.v := rfl
@[simp] theorem setI_i (w : Word) : (s.setI w).i = w := rfl
@[simp] theorem setI_pc (w : Word) : (s.setI w).pc = s.pc := rfl
@[simp] theorem setI_sp (w : Word) : (s.setI w).sp = s.sp := rfl
@[simp] theorem setI_stk (w : Word) : (s.setI w).stk = s.stk := rfl
@[simp] theorem setI_dt (w : Word) : (s.setI w).dt = s.dt := rfl
@[simp] theorem setI_st (w : Word) : (s.setI w).st = s.st := rfl
@[simp] theorem setI_key (w : Word) : (s.setI w).key = s.key := rfl
@[simp] theorem setI_fb (w : Word) : (s.setI w).fb = s.fb := rfl
@[simp] theorem setI_df (w : Word) : (s.setI w).df = s.df := rfl
@[simp] theorem setI_tone (w : Word) : (s.setI w).tone = s.tone := rfl
@[simp] theorem setI_mem (w : Word) : (s.setI w).mem = s.mem := rfl
@[simp] theorem setI_cfg (w : Word) : (s.setI w).cfg = s.cfg := rfl
@[simp] theorem setI_draws (w : Word) : (s.setI w).draws = s.draws := rfl

/-! ## setPC -/

@[simp] theorem setPC_v (a : Addr) : (s.setPC a).v = s.v := rfl
@[simp] theorem setPC_i (a : Addr) : (s.setPC a).i = s.i := rfl
@[simp] theorem setPC_pc (a : Addr) : (s.setPC a).pc = a := rfl
@[simp] theorem setPC_sp (a : Addr) : (s.setPC a).sp = s.sp := rfl
@[simp] theorem setPC_stk (a : Addr) : (s.setPC a).stk = s.stk := rfl
@[simp] theorem setPC_dt (a : Addr) : (s.setPC a).dt = s.dt := rfl
@[simp] theorem setPC_st (a : Addr) : (s.setPC a).st = s.st := rfl
@[simp] theorem setPC_key (a : Addr) : (s.setPC a).key = s.key := rfl
@[simp] theorem setPC_fb (a : Addr) : (s.setPC a).fb = s.fb := rfl
@[simp] theorem setPC_df (a : Addr) : (s.setPC a).df = s.df := rfl
@[simp] theorem setPC_tone (a : Addr) : (s.setPC a).tone = s.tone := rfl
@[simp] theorem setPC_mem (a : Addr) : (s.setPC a).mem = s.mem := rfl
@[simp] theorem setPC_cfg (a : Addr) : (s.setPC a).cfg = s.cfg := rfl
@[simp] theorem setPC_draws (a : Addr) : (s.setPC a).draws = s.draws := rfl

/-! ## setDT -/

@[simp] theorem setDT_v (b : Byte) : (s.setDT b).v = s.v := rfl
@[simp] theorem setDT_i (b : Byte) : (s.setDT b).i = s.i := rfl
@[simp] theorem setDT_pc (b : Byte) : (s.setDT b).pc = s.pc := rfl
@[simp] theorem setDT_sp (b : Byte) : (s.setDT b).sp = s.sp := rfl
@[simp] theorem setDT_stk (b : Byte) : (s.setDT b).stk = s.stk := rfl
@[simp] theorem setDT_dt (b : Byte) : (s.setDT b).dt = b := rfl
@[simp] theorem setDT_st (b : Byte) : (s.setDT b).st = s.st := rfl
@[simp] theorem setDT_key (b : Byte) : (s.setDT b).key = s.key := rfl
@[simp] theorem setDT_fb (b : Byte) : (s.setDT b).fb = s.fb := rfl
@[simp] theorem setDT_df (b : Byte) : (s.setDT b).df = s.df := rfl
@[simp] theorem setDT_tone (b : Byte) : (s.setDT b).tone = s.tone := rfl
@[simp] theorem setDT_mem (b : Byte) : (s.setDT b).mem = s.mem := rfl
@[simp] theorem setDT_cfg (b : Byte) : (s.setDT b).cfg = s.cfg := rfl
@[simp] theorem setDT_draws (b : Byte) : (s.setDT b).draws = s.draws := rfl

/-! ## setST -/

@[simp] theorem setST_v (b : Byte) : (s.setST b).v = s.v := rfl
@[simp] theorem setST_i (b : Byte) : (s.setST b).i = s.i := rfl
@[simp] theorem setST_pc (b : Byte) : (s.setST b).pc = s.pc := rfl
@[simp] theorem setST_sp (b : Byte) : (s.setST b).sp = s.sp := rfl
@[simp] theorem setST_stk (b : Byte) : (s.setST b).stk = s.stk := rfl
@[simp] theorem setST_dt (b : Byte) : (s.setST b).dt = s.dt := rfl
@[simp] theorem setST_st (b : Byte) : (s.setST b).st = b := rfl
@[simp] theorem setST_key (b : Byte) : (s.setST b).key = s.key := rfl
@[simp] theorem setST_fb (b : Byte) : (s.setST b).fb = s.fb := rfl
@[simp] theorem setST_df (b : Byte) : (s.setST b).df = s.df := rfl
@[simp] theorem setST_tone (b : Byte) : (s.setST b).tone = s.tone := rfl
@[simp] theorem setST_mem (b : Byte) : (s.setST b).mem = s.mem := rfl
@[simp] theorem setST_cfg (b : Byte) : (s.setST b).cfg = s.cfg := rfl
@[simp] theorem setST_draws (b : Byte) : (s.setST b).draws = s.draws := rfl

/-! ## writeBytes -/

@[simp] theorem writeBytes_v (a : Nat) (bs : List Byte) : (s.writeBytes a bs).v = s.v := rfl
@[simp] theorem writeBytes_i (a : Nat) (bs : List Byte) : (s.writeBytes a bs).i = s.i := rfl
@[simp] theorem writeBytes_pc (a : Nat) (bs : List Byte) : (s.writeBytes a bs).pc = s.pc := rfl
@[simp] theorem writeBytes_sp (a : Nat) (bs : List Byte) : (s.writeBytes a bs).sp = s.sp := rfl
@[simp] theorem writeBytes_stk (a : Nat) (bs : List Byte) : (s.writeBytes a bs).stk = s.stk := rfl
@[simp] theorem writeBytes_dt (a : Nat) (bs : List Byte) : (s.writeBytes a bs).dt = s.dt := rfl
@[simp] theorem writeBytes_st (a : Nat) (bs : List Byte) : (s.writeBytes a bs).st = s.st := rfl
@[simp] theorem writeBytes_key (a : Nat) (bs : List Byte) : (s.writeBytes a bs).key = s.key := rfl
@[simp] theorem writeBytes_fb (a : Nat) (bs : List Byte) : (s.writeBytes a bs).fb = s.fb := rfl
@[simp] theorem writeBytes_df (a : Nat) (bs : List Byte) : (s.writeBytes a bs).df = s.df := rfl
@[simp] theorem writeBytes_tone (a : Nat) (bs : List Byte) : (s.writeBytes a bs).tone = s.tone := rfl
@[simp] theorem writeBytes_mem (a : Nat) (bs : List Byte) : (s.writeBytes a bs).mem = Memory.writeBytes s.mem a bs := rfl
@[simp] theorem writeBytes_cfg (a : Nat) (bs : List Byte) : (s.writeBytes a bs).cfg = s.cfg := rfl
@[simp] theorem writeBytes_draws (a : Nat) (bs : List Byte) : (s.writeBytes a bs).draws = s.draws := rfl

/-! ## skip -/

@[simp] theorem skip_v : (s.skip).v = s.v := rfl
@[simp] theorem skip_i : (s.skip).i = s.i := rfl
@[simp] theorem skip_pc : (s.skip).pc = s.pc + 2 := rfl
@[simp] theorem skip_sp : (s.skip).sp = s.sp := rfl
@[simp] theorem skip_stk : (s.skip).stk = s.stk := rfl
@[simp] theorem skip_dt : (s.skip).dt = s.dt := rfl
@[simp] theorem skip_st : (s.skip).st = s.st := rfl
@[simp] theorem skip_key : (s.skip).key = s.key := rfl
@[simp] theorem skip_fb : (s.skip).fb = s.fb := rfl
@[simp] theorem skip_df : (s.skip).df = s.df := rfl
@[simp] theorem skip_tone : (s.skip).tone = s.tone := rfl
@[simp] theorem skip_mem : (s.skip).mem = s.mem := rfl
@[simp] theorem skip_cfg : (s.skip).cfg = s.cfg := rfl
@[simp] theorem skip_draws : (s.skip).draws = s.draws := rfl

/-! ## pushPC -/

@[simp] theorem pushPC_v : (s.pushPC).v = s.v := rfl
@[simp] theorem pushPC_i : (s.pushPC).i = s.i := rfl
@[simp] theorem pushPC_pc : (s.pushPC).pc = s.pc := rfl
@[simp] theorem pushPC_sp : (s.pushPC).sp = s.sp + 1 := rfl
@[simp] theorem pushPC_stk : (s.pushPC).stk = s.stk.setIfInBounds s.sp.toNat (s.pc.setWidth 16) := rfl
@[simp] theorem pushPC_dt : (s.pushPC).dt = s.dt := rfl
@[simp] theorem pushPC_st : (s.pushPC).st = s.st := rfl
@[simp] theorem pushPC_key : (s.pushPC).key = s.key := rfl
@[simp] theorem pushPC_fb : (s.pushPC).fb = s.fb := rfl
@[simp] theorem pushPC_df : (s.pushPC).df = s.df := rfl
@[simp] theorem pushPC_tone : (s.pushPC).tone = s.tone := rfl
@[simp] theorem pushPC_mem : (s.pushPC).mem = s.mem := rfl
@[simp] theorem pushPC_cfg : (s.pushPC).cfg = s.cfg := rfl
@[simp] theorem pushPC_draws : (s.pushPC).draws = s.draws := rfl

/-! ## popPC -/

@[simp] theorem popPC_v : (s.popPC).v = s.v := rfl
@[simp] theorem popPC_i : (s.popPC).i = s.i := rfl
@[simp] theorem popPC_pc : (s.popPC).pc = (s.stk[(s.sp - 1).toNat]?.getD 0).setWidth 12 := rfl
@[simp] theorem popPC_sp : (s.popPC).sp = s.sp - 1 := rfl
@[simp] theorem popPC_stk : (s.popPC).stk = s.stk := rfl
@[simp] theorem popPC_dt : (s.popPC).dt = s.dt := rfl
@[simp] theorem popPC_st : (s.popPC).st = s.st := rfl
@[simp] theorem popPC_key : (s.popPC).key = s.key := rfl
@[simp] theorem popPC_fb : (s.popPC).fb = s.fb := rfl
@[simp] theorem popPC_df : (s.popPC).df = s.df := rfl
@[simp] theorem popPC_tone : (s.popPC).tone = s.tone := rfl
@[simp] theorem popPC_mem : (s.popPC).mem = s.mem := rfl
@[simp] theorem popPC_cfg : (s.popPC).cfg = s.cfg := rfl
@[simp] theorem popPC_draws : (s.popPC).draws = s.draws := rfl

/-! ## timerTick -/

@[simp] theorem timerTick_v : (timerTick s).v = s.v := rfl
@[simp] theorem timerTick_i : (timerTick s).i = s.i := rfl
@[simp] theorem timerTick_pc : (timerTick s).pc = s.pc := rfl
@[simp] theorem timerTick_sp : (timerTick s).sp = s.sp := rfl
@[simp] theorem timerTick_stk : (timerTick s).stk = s.stk := rfl
@[simp] theorem timerTick_dt : (timerTick s).dt = (if s.dt = 0 then s.dt else s.dt - 1) := rfl
@[simp] theorem timerTick_st : (timerTick s).st = (if s.st = 0 then s.st else s.st - 1) := rfl
@[simp] theorem timerTick_key : (timerTick s).key = s.key := rfl
@[simp] theorem timerTick_fb : (timerTick s).fb = s.fb := rfl
@[simp] theorem timerTick_df : (timerTick s).df = s.df := rfl
@[simp] theorem timerTick_tone : (timerTick s).tone = (s.st == 1) := rfl
@[simp] theorem timerTick_mem : (timerTick s).mem = s.mem := rfl
@[simp] theorem timerTick_cfg : (timerTick s).cfg = s.cfg := rfl
@[simp] theorem timerTick_draws : (timerTick s).draws = s.draws := rfl

/-! ## advance -/

@[simp] theorem advance_v : (advance s).v = s.v := rfl
@[simp] theorem advance_i : (advance s).i = s.i := rfl
@[simp] theorem advance_pc : (advance s).pc = s.pc + 2 := rfl
@[simp] theorem advance_sp : (advance s).sp = s.sp := rfl
@[simp] theorem advance_stk : (advance s).stk = s.stk := rfl
@[simp] theorem advance_dt : (advance s).dt = s.dt := rfl
@[simp] theorem advance_st : (advance s).st = s.st := rfl
@[simp] theorem advance_key : (advance s).key = s.key := rfl
@[simp] theorem advance_fb : (advance s).fb = s.fb := rfl
@[simp] theorem advance_df : (advance s).df = s.df := rfl
@[simp] theorem advance_tone : (advance s).tone = s.tone := rfl
@[simp] theorem advance_mem : (advance s).mem = s.mem := rfl
@[simp] theorem advance_cfg : (advance s).cfg = s.cfg := rfl
@[simp] theorem advance_draws : (advance s).draws = s.draws := rfl

/-! ## flagThenResult -/

@[simp] theorem flagThenResult_i (x : RegIdx) (f : Byte) (r : State → Byte) : (flagThenResult s x f r).i = s.i := rfl
@[simp] theorem flagThenResult_pc (x : RegIdx) (f : Byte) (r : State → Byte) : (flagThenResult s x f r).pc = s.pc := rfl
@[simp] theorem flagThenResult_sp (x : RegIdx) (f : Byte) (r : State → Byte) : (flagThenResult s x f r).sp = s.sp := rfl
@[simp] theorem flagThenResult_stk (x : RegIdx) (f : Byte) (r : State → Byte) : (flagThenResult s x f r).stk = s.stk := rfl
@[simp] theorem flagThenResult_dt (x : RegIdx) (f : Byte) (r : State → Byte) : (flagThenResult s x f r).dt = s.dt := rfl
@[simp] theorem flagThenResult_st (x : RegIdx) (f : Byte) (r : State → Byte) : (flagThenResult s x f r).st = s.st := rfl
@[simp] theorem flagThenResult_key (x : RegIdx) (f : Byte) (r : State → Byte) : (flagThenResult s x f r).key = s.key := rfl
@[simp] theorem flagThenResult_fb (x : RegIdx) (f : Byte) (r : State → Byte) : (flagThenResult s x f r).fb = s.fb := rfl
@[simp] theorem flagThenResult_df (x : RegIdx) (f : Byte) (r : State → Byte) : (flagThenResult s x f r).df = s.df := rfl
@[simp] theorem flagThenResult_tone (x : RegIdx) (f : Byte) (r : State → Byte) : (flagThenResult s x f r).tone = s.tone := rfl
@[simp] theorem flagThenResult_mem (x : RegIdx) (f : Byte) (r : State → Byte) : (flagThenResult s x f r).mem = s.mem := rfl
@[simp] theorem flagThenResult_cfg (x : RegIdx) (f : Byte) (r : State → Byte) : (flagThenResult s x f r).cfg = s.cfg := rfl
@[simp] theorem flagThenResult_draws (x : RegIdx) (f : Byte) (r : State → Byte) : (flagThenResult s x f r).draws = s.draws := rfl

/-! ## drawn -/

@[simp] theorem drawn_i (x y : RegIdx) (n : Nat) : (drawn s x y n).i = s.i := rfl
@[simp] theorem drawn_pc (x y : RegIdx) (n : Nat) : (drawn s x y n).pc = s.pc := rfl
@[simp] theorem drawn_sp (x y : RegIdx) (n : Nat) : (drawn s x y n).sp = s.sp := rfl
@[simp] theorem drawn_stk (x y : RegIdx) (n : Nat) : (drawn s x y n).stk = s.stk := rfl
@[simp] theorem drawn_dt (x y : RegIdx) (n : Nat) : (drawn s x y n).dt = s.dt := rfl
@[simp] theorem drawn_st (x y : RegIdx) (n : Nat) : (drawn s x y n).st = s.st := rfl
@[simp] theorem drawn_key (x y : RegIdx) (n : Nat) : (drawn s x y n).key = s.key := rfl
@[simp] theorem drawn_fb (x y : RegIdx) (n : Nat) : (drawn s x y n).fb = (drawSprite s (s.getV x).toNat (s.getV y).toNat n).1 := rfl
@[simp] theorem drawn_df (x y : RegIdx) (n : Nat) : (drawn s x y n).df = true := rfl
@[simp] theorem drawn_tone (x y : RegIdx) (n : Nat) : (drawn s x y n).tone = s.tone := rfl
@[simp] theorem drawn_mem (x y : RegIdx) (n : Nat) : (drawn s x y n).mem = s.mem := rfl
@[simp] theorem drawn_cfg (x y : RegIdx) (n : Nat) : (drawn s x y n).cfg = s.cfg := rfl
@[simp] theorem drawn_draws (x y : RegIdx) (n : Nat) : (drawn s x y n).draws = s.draws := rfl

/-! ## hostSetKey -/

@[simp] theorem hostSetKey_v (k : Fin 16) (p : Bool) : (hostSetKey k p s).v = s.v := rfl
@[simp] theorem hostSetKey_i (k : Fin 16) (p : Bool) : (hostSetKey k p s).i = s.i := rfl
@[simp] theorem hostSetKey_pc (k : Fin 16) (p : Bool) : (hostSetKey k p s).pc = s.pc := rfl
@[simp] theorem hostSetKey_sp (k : Fin 16) (p : Bool) : (hostSetKey k p s).sp = s.sp := rfl
@[simp] theorem hostSetKey_stk (k : Fin 16) (p : Bool) : (hostSetKey k p s).stk = s.stk := rfl
@[simp] theorem hostSetKey_dt (k : Fin 16) (p : Bool) : (hostSetKey k p s).dt = s.dt := rfl
@[simp] theorem hostSetKey_st (k : Fin 16) (p : Bool) : (hostSetKey k p s).st = s.st := rfl
@[simp] theorem hostSetKey_key (k : Fin 16) (p : Bool) : (hostSetKey k p s).key = s.key.set k p := rfl
@[simp] theorem hostSetKey_fb (k : Fin 16) (p : Bool) : (hostSetKey k p s).fb = s.fb := rfl
@[simp] theorem hostSetKey_df (k : Fin 16) (p : Bool) : (hostSetKey k p s).df = s.df := rfl
@[simp] theorem hostSetKey_tone (k : Fin 16) (p : Bool) : (hostSetKey k p s).tone = s.tone := rfl
@[simp] theorem hostSetKey_mem (k : Fin 16) (p : Bool) : (hostSetKey k p s).mem = s.mem := rfl
@[simp] theorem hostSetKey_cfg (k : Fin 16) (p : Bool) : (hostSetKey k p s).cfg = s.cfg := rfl
@[simp] theorem hostSetKey_draws (k : Fin 16) (p : Bool) : (hostSetKey k p s).draws = s.draws := rfl

/-! ## hostClearDF -/

@[simp] theorem hostClearDF_v : (hostClearDF s).v = s.v := rfl
@[simp] theorem hostClearDF_i : (hostClearDF s).i = s.i := rfl
@[simp] theorem hostClearDF_pc : (hostClearDF s).pc = s.pc := rfl
@[simp] theorem hostClearDF_sp : (hostClearDF s).sp = s.sp := rfl
@[simp] theorem hostClearDF_stk : (hostClearDF s).stk = s.stk := rfl
@[simp] theorem hostClearDF_dt : (hostClearDF s).dt = s.dt := rfl
@[simp] theorem hostClearDF_st : (hostClearDF s).st = s.st := rfl
@[simp] theorem hostClearDF_key : (hostClearDF s).key = s.key := rfl
@[simp] theorem hostClearDF_fb : (hostClearDF s).fb = s.fb := rfl
@[simp] theorem hostClearDF_df : (hostClearDF s).df = false := rfl
@[simp] theorem hostClearDF_tone : (hostClearDF s).tone = s.tone := rfl
@[simp] theorem hostClearDF_mem : (hostClearDF s).mem = s.mem := rfl
@[simp] theorem hostClearDF_cfg : (hostClearDF s).cfg = s.cfg := rfl
@[simp] theorem hostClearDF_draws : (hostClearDF s).draws = s.draws := rfl

/-! ## Registers -/

/-- A register after a register write. -/
theorem getV_setV (x y : RegIdx) (b : Byte) : (s.setV x b).getV y = if y = x then b else s.getV y := by
  unfold State.getV State.setV
  by_cases h : y = x
  · subst h; simp
  · have : x.val ≠ y.val := fun e => h (Fin.ext e.symm)
    simp [h, this]

@[simp] theorem getV_setV_self (x : RegIdx) (b : Byte) : (s.setV x b).getV x = b := by simp [getV_setV]

theorem getV_setV_ne {x y : RegIdx} (h : y ≠ x) (b : Byte) : (s.setV x b).getV y = s.getV y := by
  simp [getV_setV, h]

@[simp] theorem getV_setI (w : Word) (r : RegIdx) : (s.setI w).getV r = s.getV r := rfl
@[simp] theorem getV_setPC (a : Addr) (r : RegIdx) : (s.setPC a).getV r = s.getV r := rfl
@[simp] theorem getV_setDT (b : Byte) (r : RegIdx) : (s.setDT b).getV r = s.getV r := rfl
@[simp] theorem getV_setST (b : Byte) (r : RegIdx) : (s.setST b).getV r = s.getV r := rfl
@[simp] theorem getV_writeBytes (a : Nat) (bs : List Byte) (r : RegIdx) : (s.writeBytes a bs).getV r = s.getV r := rfl
@[simp] theorem getV_skip (r : RegIdx) : (s.skip).getV r = s.getV r := rfl
@[simp] theorem getV_pushPC (r : RegIdx) : (s.pushPC).getV r = s.getV r := rfl
@[simp] theorem getV_popPC (r : RegIdx) : (s.popPC).getV r = s.getV r := rfl
@[simp] theorem getV_timerTick (r : RegIdx) : (timerTick s).getV r = s.getV r := rfl
@[simp] theorem getV_advance (r : RegIdx) : (advance s).getV r = s.getV r := rfl
@[simp] theorem getV_hostSetKey (k : Fin 16) (p : Bool) (r : RegIdx) : (hostSetKey k p s).getV r = s.getV r := rfl
@[simp] theorem getV_hostClearDF (r : RegIdx) : (hostClearDF s).getV r = s.getV r := rfl

/-! ## Stack entries and key latches -/

@[simp] theorem stkAt_setV (x : RegIdx) (b : Byte) (k : Fin 16) : (s.setV x b).stkAt k = s.stkAt k := rfl
@[simp] theorem keyAt_setV (x : RegIdx) (b : Byte) (k : Fin 16) : (s.setV x b).keyAt k = s.keyAt k := rfl
@[simp] theorem stkAt_setI (w : Word) (k : Fin 16) : (s.setI w).stkAt k = s.stkAt k := rfl
@[simp] theorem keyAt_setI (w : Word) (k : Fin 16) : (s.setI w).keyAt k = s.keyAt k := rfl
@[simp] theorem stkAt_setPC (a : Addr) (k : Fin 16) : (s.setPC a).stkAt k = s.stkAt k := rfl
@[simp] theorem keyAt_setPC (a : Addr) (k : Fin 16) : (s.setPC a).keyAt k = s.keyAt k := rfl
@[simp] theorem stkAt_setDT (b : Byte) (k : Fin 16) : (s.setDT b).stkAt k = s.stkAt k := rfl
@[simp] theorem keyAt_setDT (b : Byte) (k : Fin 16) : (s.setDT b).keyAt k = s.keyAt k := rfl
@[simp] theorem stkAt_setST (b : Byte) (k : Fin 16) : (s.setST b).stkAt k = s.stkAt k := rfl
@[simp] theorem keyAt_setST (b : Byte) (k : Fin 16) : (s.setST b).keyAt k = s.keyAt k := rfl
@[simp] theorem stkAt_writeBytes (a : Nat) (bs : List Byte) (k : Fin 16) : (s.writeBytes a bs).stkAt k = s.stkAt k := rfl
@[simp] theorem keyAt_writeBytes (a : Nat) (bs : List Byte) (k : Fin 16) : (s.writeBytes a bs).keyAt k = s.keyAt k := rfl
@[simp] theorem stkAt_skip (k : Fin 16) : (s.skip).stkAt k = s.stkAt k := rfl
@[simp] theorem keyAt_skip (k : Fin 16) : (s.skip).keyAt k = s.keyAt k := rfl
@[simp] theorem keyAt_pushPC (k : Fin 16) : (s.pushPC).keyAt k = s.keyAt k := rfl
@[simp] theorem stkAt_popPC (k : Fin 16) : (s.popPC).stkAt k = s.stkAt k := rfl
@[simp] theorem keyAt_popPC (k : Fin 16) : (s.popPC).keyAt k = s.keyAt k := rfl
@[simp] theorem stkAt_timerTick (k : Fin 16) : (timerTick s).stkAt k = s.stkAt k := rfl
@[simp] theorem keyAt_timerTick (k : Fin 16) : (timerTick s).keyAt k = s.keyAt k := rfl
@[simp] theorem stkAt_advance (k : Fin 16) : (advance s).stkAt k = s.stkAt k := rfl
@[simp] theorem keyAt_advance (k : Fin 16) : (advance s).keyAt k = s.keyAt k := rfl
@[simp] theorem stkAt_flagThenResult (x : RegIdx) (f : Byte) (r : State → Byte) (k : Fin 16) : (flagThenResult s x f r).stkAt k = s.stkAt k := rfl
@[simp] theorem keyAt_flagThenResult (x : RegIdx) (f : Byte) (r : State → Byte) (k : Fin 16) : (flagThenResult s x f r).keyAt k = s.keyAt k := rfl
@[simp] theorem stkAt_drawn (x y : RegIdx) (n : Nat) (k : Fin 16) : (drawn s x y n).stkAt k = s.stkAt k := rfl
@[simp] theorem keyAt_drawn (x y : RegIdx) (n : Nat) (k : Fin 16) : (drawn s x y n).keyAt k = s.keyAt k := rfl
@[simp] theorem stkAt_hostSetKey (j : Fin 16) (p : Bool) (k : Fin 16) : (hostSetKey j p s).stkAt k = s.stkAt k := rfl
@[simp] theorem stkAt_hostClearDF (k : Fin 16) : (hostClearDF s).stkAt k = s.stkAt k := rfl
@[simp] theorem keyAt_hostClearDF (k : Fin 16) : (hostClearDF s).keyAt k = s.keyAt k := rfl

/-- A key latch after set_key. -/
theorem keyAt_hostSetKey (j k : Fin 16) (p : Bool) :
    (hostSetKey j p s).keyAt k = if k = j then p else s.keyAt k := by
  unfold State.keyAt hostSetKey
  by_cases h : k = j
  · subst h; simp
  · have : j.val ≠ k.val := fun e => h (Fin.ext e.symm)
    simp [h, this]

/-! ## Memory reads -/

@[simp] theorem readByte_setV (x : RegIdx) (b : Byte) (k : Nat) : (s.setV x b).readByte k = s.readByte k := rfl
@[simp] theorem readByte_setI (w : Word) (k : Nat) : (s.setI w).readByte k = s.readByte k := rfl
@[simp] theorem readByte_setPC (a : Addr) (k : Nat) : (s.setPC a).readByte k = s.readByte k := rfl
@[simp] theorem readByte_setDT (b : Byte) (k : Nat) : (s.setDT b).readByte k = s.readByte k := rfl
@[simp] theorem readByte_setST (b : Byte) (k : Nat) : (s.setST b).readByte k = s.readByte k := rfl
@[simp] theorem readByte_skip (k : Nat) : (s.skip).readByte k = s.readByte k := rfl
@[simp] theorem readByte_pushPC (k : Nat) : (s.pushPC).readByte k = s.readByte k := rfl
@[simp] theorem readByte_popPC (k : Nat) : (s.popPC).readByte k = s.readByte k := rfl
@[simp] theorem readByte_timerTick (k : Nat) : (timerTick s).readByte k = s.readByte k := rfl
@[simp] theorem readByte_advance (k : Nat) : (advance s).readByte k = s.readByte k := rfl
@[simp] theorem readByte_flagThenResult (x : RegIdx) (f : Byte) (r : State → Byte) (k : Nat) : (flagThenResult s x f r).readByte k = s.readByte k := rfl
@[simp] theorem readByte_drawn (x y : RegIdx) (n : Nat) (k : Nat) : (drawn s x y n).readByte k = s.readByte k := rfl
@[simp] theorem readByte_hostSetKey (j : Fin 16) (p : Bool) (k : Nat) : (hostSetKey j p s).readByte k = s.readByte k := rfl
@[simp] theorem readByte_hostClearDF (k : Nat) : (hostClearDF s).readByte k = s.readByte k := rfl

/-- The flag is in VF and the result in V[x]; when x is VF the result is there. -/
theorem getV_flagThenResult (x r : RegIdx) (f : Byte) (res : State → Byte) :
    (flagThenResult s x f res).getV r =
      if r = x then res (s.setV VF f) else if r = VF then f else s.getV r := by
  simp only [flagThenResult, getV_setV]

/-- DRW writes one register, VF. -/
theorem getV_drawn (x y r : RegIdx) (n : Nat) :
    (drawn s x y n).getV r =
      if r = VF then flagByte (drawSprite s (s.getV x).toNat (s.getV y).toNat n).2 else s.getV r :=
  getV_setV s VF r _

/-- The end of a cycle touches the timers, TONE and the number of the draw, and nothing else. -/
theorem endCycle_eq : endCycle s =
    { s with dt := (endCycle s).dt, st := (endCycle s).st, tone := (endCycle s).tone, draws := s.draws + 1 } := by
  unfold endCycle; cases s.cfg.timerMode <;> rfl

@[simp] theorem endCycle_v : (endCycle s).v = s.v := by rw [endCycle_eq]
@[simp] theorem endCycle_i : (endCycle s).i = s.i := by rw [endCycle_eq]
@[simp] theorem endCycle_pc : (endCycle s).pc = s.pc := by rw [endCycle_eq]
@[simp] theorem endCycle_sp : (endCycle s).sp = s.sp := by rw [endCycle_eq]
@[simp] theorem endCycle_stk : (endCycle s).stk = s.stk := by rw [endCycle_eq]
@[simp] theorem endCycle_key : (endCycle s).key = s.key := by rw [endCycle_eq]
@[simp] theorem endCycle_fb : (endCycle s).fb = s.fb := by rw [endCycle_eq]
@[simp] theorem endCycle_df : (endCycle s).df = s.df := by rw [endCycle_eq]
@[simp] theorem endCycle_mem : (endCycle s).mem = s.mem := by rw [endCycle_eq]
@[simp] theorem endCycle_cfg : (endCycle s).cfg = s.cfg := by rw [endCycle_eq]
@[simp] theorem endCycle_draws : (endCycle s).draws = s.draws + 1 := by rw [endCycle_eq]

@[simp] theorem getV_endCycle (r : RegIdx) : (endCycle s).getV r = s.getV r := by simp [State.getV]

@[simp] theorem stkAt_endCycle (k : Fin 16) : (endCycle s).stkAt k = s.stkAt k := by simp [State.stkAt]

@[simp] theorem keyAt_endCycle (k : Fin 16) : (endCycle s).keyAt k = s.keyAt k := by simp [State.keyAt]

@[simp] theorem readByte_endCycle (a : Nat) : (endCycle s).readByte a = s.readByte a := by simp [State.readByte]

end Sys2Proof.Machine
end

