-- ==== Sys2Proof/Laws/Ops.lean ====
section
/-! SUPPORT. What each shared operation can do, said once: proofs cite these and do not unfold the operation. -/

namespace Sys2Proof.Machine

variable (s t : State)

/-! ## Outcomes -/

@[simp] theorem guarded_none : guarded none t = .next t := rfl

@[simp] theorem guarded_some (f : Fault) : guarded (some f) t = .fault f := rfl

theorem guarded_eq_next_iff {f : Option Fault} {u : State} : guarded f t = .next u ↔ f = none ∧ u = t := by
  cases f <;> simp [eq_comm]

theorem guarded_eq_fault_iff {f : Option Fault} {r : Fault} : guarded f t = .fault r ↔ f = some r := by
  cases f <;> simp

theorem guarded_ne_refused (f : Option Fault) (r : Refusal) : guarded f t ≠ .refused r := by
  cases f <;> simp

theorem finishCycle_eq_next_iff {o : Result} {u : State} :
    finishCycle o = .next u ↔ ∃ t, o = .next t ∧ u = endCycle t := by
  cases o <;> simp [finishCycle, eq_comm]

theorem finishCycle_eq_fault_iff {o : Result} {f : Fault} : finishCycle o = .fault f ↔ o = .fault f := by
  cases o <;> simp [finishCycle]

theorem finishCycle_eq_refused_iff {o : Result} {r : Refusal} : finishCycle o = .refused r ↔ o = .refused r := by
  cases o <;> simp [finishCycle]

/-! ## The checks of the switches -/

theorem memoryCheck_eq_none_iff (a n : Nat) :
    memoryCheck s a n = none ↔ (s.cfg.addrOverrun = .fault → 0 < n → a + (n - 1) ≤ 0xFFF) := by
  unfold memoryCheck; split <;> simp_all

theorem pcCheck_eq_none_iff (target : Nat) :
    pcCheck s target = none ↔ (s.cfg.pcOverrun = .fault → target ≤ 0xFFF) := by
  unfold pcCheck; split <;> simp_all

theorem keyCheck_eq_none_iff (x : RegIdx) :
    keyCheck s x = none ↔ (s.cfg.keyIndex = .fault → (s.getV x).toNat ≤ 15) := by
  unfold keyCheck; split <;> simp_all

theorem pushCheck_eq_none_iff : pushCheck s = none ↔ s.sp.toNat < 16 := by
  have h : s.sp = 16 ↔ s.sp.toNat = 16 := by rw [← BitVec.toNat_inj]; rfl
  unfold pushCheck
  by_cases h1 : s.sp = 16
  · simp [h1]
  · have h3 := mt h.2 h1
    by_cases h2 : 16 < s.sp.toNat <;> simp only [h1, h2, if_true, if_false] <;> simp <;> omega

theorem popCheck_eq_none_iff : popCheck s = none ↔ 0 < s.sp.toNat ∧ s.sp.toNat ≤ 16 := by
  have h : s.sp = 0 ↔ s.sp.toNat = 0 := by rw [← BitVec.toNat_inj]; rfl
  unfold popCheck
  by_cases h1 : s.sp = 0
  · simp [h1]
  · have h3 := mt h.2 h1
    by_cases h2 : 16 < s.sp.toNat <;> simp only [h1, h2, if_true, if_false] <;> simp <;> omega

theorem drawRowCheck_default (h : DefaultSwitches s) (x0 y0 r : Nat) : drawRowCheck s x0 y0 r = none := by
  simp [drawRowCheck, memoryCheck, h.1, h.2.1]

theorem drawCheck_default (h : DefaultSwitches s) (x0 y0 n : Nat) : drawCheck s x0 y0 n = none := by
  simp [drawCheck, drawRowCheck_default s h]

theorem fetchCheck_default (h : DefaultSwitches s) : fetchCheck s = none := by
  simp [fetchCheck, h.1, h.2.2.2.1]

theorem decodeCheck_default (h : DefaultSwitches s) : decodeCheck s = none := by
  simp [decodeCheck, h.2.2.2.2.2.2]

theorem decodeCheck_canonical (h : canonical (fetchOpcode s) = true) : decodeCheck s = none := by
  simp [decodeCheck, h]

/-! ## Skips, flags, keys -/

/-- A skip that is not taken writes nothing. -/
@[simp] theorem skipIf_false : skipIf false s = .next s := rfl

@[simp] theorem skipIf_true : skipIf true s = guarded (pcCheck s (s.pc.toNat + 2)) s.skip := rfl

/-- All a conditional skip can do when it answers a next state. -/
theorem skipIf_eq_next {c : Bool} {u : State} (h : skipIf c s = .next u) :
    u = if c then s.skip else s := by
  cases c
  · simpa [eq_comm] using h
  · exact ((guarded_eq_next_iff _).1 h).2

theorem skipIf_ne_refused (c : Bool) (r : Refusal) : skipIf c s ≠ .refused r := by
  cases c
  · simp
  · exact guarded_ne_refused _ _ _

/-- All a key skip can do when it answers a next state. -/
theorem keySkip_eq_next {x : RegIdx} {c : Bool} {u : State} (h : keySkip s x c = .next u) :
    keyCheck s x = none ∧ u = if c then s.skip else s := by
  unfold keySkip at h
  split at h
  · simp at h
  · exact ⟨by assumption, skipIf_eq_next s h⟩

/-- All a flag-writing arithmetic instruction can do: a next state by flag, then result, or the refusal of U6. -/
theorem flagOp_cases (ops : List RegIdx) (x : RegIdx) (f : Byte) (res : State → Byte) :
    (vfAliasRefused s ops = false ∧ flagOp s ops x f res = .next (flagThenResult s x f res)) ∨
    (vfAliasRefused s ops = true ∧ flagOp s ops x f res = .refused .vfAlias) := by
  unfold flagOp; cases vfAliasRefused s ops <;> simp

theorem vfAliasRefused_default (h : DefaultSwitches s) (ops : List RegIdx) : vfAliasRefused s ops = false := by
  simp [vfAliasRefused, h.2.2.2.2.1]

/-- The least pressed key: pressed, and no lower key is. -/
theorem leastKey_eq_some_iff (k : Fin 16) :
    leastKey s = some k.val ↔ s.keyAt k = true ∧ ∀ j : Fin 16, j < k → s.keyAt j = false := by
  unfold leastKey State.keyAt
  rw [List.findIdx?_eq_some_iff_getElem]
  constructor
  · rintro ⟨_, h, hj⟩
    exact ⟨by simpa using h, fun j hlt => by simpa using hj j.val hlt⟩
  · rintro ⟨h, hj⟩
    exact ⟨by simp, by simpa using h, fun j hlt => by simpa using hj ⟨j, Nat.lt_trans hlt k.isLt⟩ hlt⟩

/-- The scan answers a key number, never more. -/
theorem leastKey_lt {k : Nat} (h : leastKey s = some k) : k < 16 := by
  unfold leastKey at h
  rw [List.findIdx?_eq_some_iff_getElem] at h
  simpa using h.1

theorem leastKey_eq_none_iff : leastKey s = none ↔ ∀ k : Fin 16, s.keyAt k = false := by
  unfold leastKey State.keyAt
  rw [List.findIdx?_eq_none_iff]
  simp only [Vector.mem_toList_iff, Vector.mem_iff_getElem, id]
  constructor
  · exact fun h k => h _ ⟨k.val, k.isLt, rfl⟩
  · rintro h x ⟨i, hi, rfl⟩; exact h ⟨i, hi⟩

theorem keySelect_val (b : Byte) : (keySelect b).val = b.toNat % 16 := by
  simp [keySelect]

/-! ## Register ranges -/

@[simp] theorem length_regsUpTo (x : RegIdx) : (regsUpTo s x).length = x.val + 1 := by
  simp [regsUpTo]

theorem getElem_regsUpTo (x : RegIdx) (k : Nat) (h : k < (regsUpTo s x).length) :
    (regsUpTo s x)[k] = s.getV ⟨k, by rw [length_regsUpTo] at h; omega⟩ := by
  simp [regsUpTo, State.getV]

@[simp] theorem length_bcdDigits (b : Byte) : (bcdDigits b).length = 3 := rfl

/-- After a load of `n` registers: the first `n` hold the bytes read, the others what they held. -/
theorem getElem_loadRegs (a n : Nat) (k : Nat) (hk : k < 16) :
    (loadRegs s a n)[k] = if k < n then s.readByte (a + k) else s.v[k] := by
  induction n with
  | zero => simp [loadRegs]
  | succ n ih =>
    simp only [loadRegs, Vector.getElem_setIfInBounds, ih]
    by_cases h : n = k
    · simp [h]
    · have : (k < n + 1) = (k < n) := by simp; omega
      simp [h, this]

/-! ## Stack -/

/-- After a push, the entry at the old SP is the pushed address and the others are unchanged. -/
theorem stkAt_pushPC (k : Fin 16) :
    s.pushPC.stkAt k = if s.sp.toNat = k.val then s.pc.setWidth 16 else s.stkAt k := by
  simp [State.stkAt, Vector.getElem_setIfInBounds]

/-- A pop jumps to the low 12 bits of the entry at the new SP. -/
theorem popPC_pc_eq (k : Fin 16) (h : s.sp.toNat = k.val + 1) : s.popPC.pc = (s.stkAt k).setWidth 12 := by
  have e : (s.sp - 1).toNat = k.val := by
    rw [BitVec.toNat_sub_of_le]
    · rw [h]; simp
    · rw [BitVec.le_def, h]; simp
  rw [popPC_pc, e]
  simp [State.stkAt]

/-! ## Memory of the state -/

theorem readByte_writeBytes_outside (a b : Nat) (bs : List Byte) (h : ¬ Touches a bs.length (memAddr b)) :
    (s.writeBytes a bs).readByte b = s.readByte b :=
  read_writeBytes_outside bs s.mem a _ fun k hk e => h ⟨k, hk, e⟩

theorem readByte_writeBytes_inside (hm : Memory.wf s.mem = true) (a k : Nat) (bs : List Byte) (hk : k < bs.length)
    (hl : bs.length ≤ memSize) : (s.writeBytes a bs).readByte (a + k) = bs[k] :=
  read_writeBytes_inside bs hm a k hk hl

theorem reset_mem : State.reset.mem = [] := rfl

/-- Installing the default font over empty memory lists nothing: it is what an unlisted address reads as. -/
theorem resetMemory_default : resetMemory defaultFont = [] := by decide

/-- The host's reset of a machine with the default parameters and no draw behind it is State.reset. -/
theorem hostReset_reset : hostReset State.reset = State.reset := by
  simp only [hostReset, State.reset, defaultConfig, resetMemory_default]

theorem wf_resetMemory (font : Vector Byte 80) : Memory.wf (resetMemory font) = true :=
  wf_writeBytes font.toList (m := []) rfl 0

/-! ## Framebuffer -/

/-- A flip changes the one pixel it names, if that is on the screen. -/
theorem pixel_flip (fb : FrameBuf) (x y i j : Nat) (hx : x < 64) (hy : y < 32) :
    FrameBuf.pixel (FrameBuf.flip fb x y) i j = (FrameBuf.pixel fb i j ^^ decide (i = x ∧ j = y)) := by
  unfold FrameBuf.pixel FrameBuf.flip
  rw [Vector.getElem?_setIfInBounds]
  by_cases h : y = j
  · subst h
    by_cases hi : i = x
    · subst hi; simp [hy, hx]
    · have : x ≠ i := fun e => hi e.symm
      simp [hy, hi, this]
  · have : ¬ (i = x ∧ j = y) := fun e => h e.2.symm
    simp [h, this]

/-- All one sprite bit can do. -/
theorem drawBit_eq (b : Byte) (x0 y : Nat) (acc : FrameBuf × Bool) (c : Nat) :
    drawBit b x0 y acc c =
      if spriteBit b c = true ∧ x0 + c ≤ 63 ∧ y ≤ 31 then
        (FrameBuf.flip acc.1 (x0 + c) y, acc.2 || FrameBuf.pixel acc.1 (x0 + c) y)
      else acc := by
  simp only [drawBit, onScreen, Bool.and_eq_true, decide_eq_true_eq]

/-! ## The cycle -/

/-- All a step can do when it answers a next state: no strict check stopped it, its instruction answered a next state,
and the end of the cycle was applied to that. -/
theorem step_eq_next_iff {u : State} : step s = .next u ↔
    fetchCheck s = none ∧ decodeCheck s = none ∧
      ∃ t, exec (decodeWord (fetchOpcode s)) (advance s) = .next t ∧ u = endCycle t := by
  unfold step
  cases fetchCheck s <;> cases decodeCheck s <;> simp [finishCycle_eq_next_iff]

/-- A step no strict check stops is its instruction and the end of the cycle. -/
theorem step_of_checks (hf : fetchCheck s = none) (hd : decodeCheck s = none) :
    step s = finishCycle (exec (decodeWord (fetchOpcode s)) (advance s)) := by
  simp [step, hf, hd]

end Sys2Proof.Machine
end

