-- ==== Sys2Proof/Laws/Exec.lean ====
section
/-! SUPPORT. What an instruction can do, said once: the one state it can answer. Invariants and frames of all
instructions are proved from `exec_eq_next` by cases on the instruction, without unfolding a meaning. -/

namespace Sys2Proof.Machine

/-- The state an instruction leaves whenever it answers a next state. -/
def effect (i : Instr) (s : State) : State :=
  match i with
  | .cls => { s with fb := Vector.replicate 32 0, df := true }
  | .ret => s.popPC
  | .jpAddr nnn => s.setPC nnn
  | .callAddr nnn => s.pushPC.setPC nnn
  | .seVxNN x nn => if s.getV x == nn then s.skip else s
  | .sneVxNN x nn => if s.getV x != nn then s.skip else s
  | .seVxVy x y => if s.getV x == s.getV y then s.skip else s
  | .ldVxNN x nn => s.setV x nn
  | .addVxNN x nn => s.setV x (s.getV x + nn)
  | .ldVxVy x y => s.setV x (s.getV y)
  | .orVxVy x y => s.setV x (s.getV x ||| s.getV y)
  | .andVxVy x y => s.setV x (s.getV x &&& s.getV y)
  | .xorVxVy x y => s.setV x (s.getV x ^^^ s.getV y)
  | .addVxVy x y => flagThenResult s x (carryFlag (s.getV x) (s.getV y)) fun t => t.getV x + t.getV y
  | .subVxVy x y => flagThenResult s x (noBorrowFlag (s.getV x) (s.getV y)) fun t => t.getV x - t.getV y
  | .shrVx x _ => flagThenResult s x (lsbFlag (s.getV x)) fun t => t.getV x >>> 1
  | .subnVxVy x y => flagThenResult s x (noBorrowFlag (s.getV y) (s.getV x)) fun t => t.getV y - t.getV x
  | .shlVx x _ => flagThenResult s x (msbFlag (s.getV x)) fun t => t.getV x <<< 1
  | .sneVxVy x y => if s.getV x != s.getV y then s.skip else s
  | .ldIAddr nnn => s.setI (nnn.setWidth 16)
  | .jpV0Addr nnn => s.setPC (nnn + (s.getV 0).setWidth 12)
  | .rndVxNN x nn => s.setV x (Config.rnd s.draws &&& nn)
  | .drwVxVyN x y n => drawn s x y n.val
  | .skpVx x => if keyHeld s x then s.skip else s
  | .sknpVx x => if !keyHeld s x then s.skip else s
  | .ldVxDT x => s.setV x s.dt
  | .ldVxK x => match leastKey s with
    | none => s.setPC (s.pc - 2)
    | some k => s.setV x (BitVec.ofNat 8 k)
  | .ldDTVx x => s.setDT (s.getV x)
  | .ldSTVx x => s.setST (s.getV x)
  | .addIVx x =>
    (s.setI (s.i + (s.getV x).setWidth 16)).setV VF (indexFlag (s.i.toNat + (s.getV x).toNat))
  | .ldFVx x => s.setI ((s.getV x).setWidth 16 * 5)
  | .ldBVx x => s.writeBytes s.i.toNat (bcdDigits (s.getV x))
  | .ldMemVx x => (s.writeBytes s.i.toNat (regsUpTo s x)).setI (indexAfter s x)
  | .ldVxMem x => { s with v := loadRegs s s.i.toNat (x.val + 1), i := indexAfter s x }
  | .unknown _ => s

theorem flagOp_eq_next {s t : State} {ops : List RegIdx} {x : RegIdx} {f : Byte} {res : State → Byte}
    (h : flagOp s ops x f res = .next t) : t = flagThenResult s x f res := by
  rcases flagOp_cases s ops x f res with ⟨_, e⟩ | ⟨_, e⟩ <;> rw [e] at h
  · simpa [eq_comm] using h
  · simp at h

/-- An instruction that answers a next state answers `effect`. -/
theorem exec_eq_next {i : Instr} {s t : State} (h : exec i s = .next t) : t = effect i s := by
  cases i <;> simp only [exec] at h
  case ret => exact ((guarded_eq_next_iff _).1 h).2
  case callAddr => exact ((guarded_eq_next_iff _).1 h).2
  case jpV0Addr => exact ((guarded_eq_next_iff _).1 h).2
  case ldBVx => exact ((guarded_eq_next_iff _).1 h).2
  case ldMemVx => exact ((guarded_eq_next_iff _).1 h).2
  case ldVxMem => exact ((guarded_eq_next_iff _).1 h).2
  case seVxNN => exact skipIf_eq_next s h
  case sneVxNN => exact skipIf_eq_next s h
  case seVxVy => exact skipIf_eq_next s h
  case sneVxVy => exact skipIf_eq_next s h
  case skpVx => exact (keySkip_eq_next s h).2
  case sknpVx => exact (keySkip_eq_next s h).2
  case addVxVy => exact flagOp_eq_next h
  case subVxVy => exact flagOp_eq_next h
  case shrVx => exact flagOp_eq_next h
  case subnVxVy => exact flagOp_eq_next h
  case shlVx => exact flagOp_eq_next h
  case drwVxVyN =>
    unfold execDrwVxVyN at h
    split at h
    · simp at h
    · exact ((guarded_eq_next_iff _).1 h).2
  case ldVxK =>
    unfold execLdVxK at h
    simp only [effect]
    cases hk : leastKey s <;> simp [hk] at h ⊢ <;> exact h.symm
  all_goals (cases h; rfl)

/-- What RET needs to answer a next state, known of any that does. -/
theorem exec_ret_eq_next {s t : State} (h : exec .ret s = .next t) : 0 < s.sp.toNat ∧ s.sp.toNat ≤ 16 :=
  (popCheck_eq_none_iff s).1 ((guarded_eq_next_iff _).1 h).1

/-- What CALL needs to answer a next state, known of any that does. -/
theorem exec_call_eq_next {s t : State} {nnn : Addr} (h : exec (.callAddr nnn) s = .next t) : s.sp.toNat < 16 :=
  (pushCheck_eq_none_iff s).1 ((guarded_eq_next_iff _).1 h).1

end Sys2Proof.Machine
end

