-- ==== Sys2Proof/Laws/PerInstr.lean ====
section
/-! SUPPORT. Per-instruction facts about the syntax: the dispatch key of each instruction's word (30_encoding.md R64, R66). -/

namespace Sys2Proof.Laws

/-- The key column of R66; an unknown opcode has the key of its word. -/
def keyOf : Instr → Word
  | .cls => 0x00E0
  | .ret => 0x00EE
  | .jpAddr _ => 0x1000
  | .callAddr _ => 0x2000
  | .seVxNN _ _ => 0x3000
  | .sneVxNN _ _ => 0x4000
  | .seVxVy _ _ => 0x5000
  | .ldVxNN _ _ => 0x6000
  | .addVxNN _ _ => 0x7000
  | .ldVxVy _ _ => 0x8000
  | .orVxVy _ _ => 0x8001
  | .andVxVy _ _ => 0x8002
  | .xorVxVy _ _ => 0x8003
  | .addVxVy _ _ => 0x8004
  | .subVxVy _ _ => 0x8005
  | .shrVx _ _ => 0x8006
  | .subnVxVy _ _ => 0x8007
  | .shlVx _ _ => 0x800E
  | .sneVxVy _ _ => 0x9000
  | .ldIAddr _ => 0xA000
  | .jpV0Addr _ => 0xB000
  | .rndVxNN _ _ => 0xC000
  | .drwVxVyN _ _ _ => 0xD000
  | .skpVx _ => 0xE09E
  | .sknpVx _ => 0xE0A1
  | .ldVxDT _ => 0xF007
  | .ldVxK _ => 0xF00A
  | .ldDTVx _ => 0xF015
  | .ldSTVx _ => 0xF018
  | .addIVx _ => 0xF01E
  | .ldFVx _ => 0xF029
  | .ldBVx _ => 0xF033
  | .ldMemVx _ => 0xF055
  | .ldVxMem _ => 0xF065
  | .unknown op => dispatchKey op

/-- The word of the instruction has the key R66 gives the instruction. -/
def KeyOfEncode.Statement (i : Instr) : Prop := dispatchKey (encode i) = keyOf i

/-- The top nibble of a word made of a nibble, twelve bits and no more. -/
theorem opClass_append (c : BitVec 4) (rest : BitVec 12) : opClass (c ++ rest) = c :=
  BitVec.extractLsb'_append_eq_left

/-- The class of a word with one register field. -/
theorem opClass_encXK (c : BitVec 4) (x : RegIdx) (nn : Byte) : opClass (encXK c x nn) = c := by
  have h : encXK c x nn = (c ++ (nibble x ++ nn : BitVec 12) : BitVec 16) := by
    rw [encXK, BitVec.append_assoc]; rfl
  rw [h, opClass_append]

/-- The class of a word with two register fields. -/
theorem opClass_encXYN (c : BitVec 4) (x y : RegIdx) (n : BitVec 4) : opClass (encXYN c x y n) = c := by
  have h : encXYN c x y n = (c ++ (nibble x ++ (nibble y ++ n : BitVec 8) : BitVec 12) : BitVec 16) := by
    rw [encXYN, BitVec.append_assoc, BitVec.append_assoc]; rfl
  rw [h, opClass_append]

/-- The key of a format A word keeps the class. -/
theorem key_encA (c : BitVec 4) (nnn : Addr) (h : classMask c = 0xF000) :
    dispatchKey (encA c nnn) = c ++ (0#12) := by
  have hc : opClass (encA c nnn) = c := BitVec.extractLsb'_append_eq_left
  rw [dispatchKey, hc, h, encA, show (0xF000 : Word) = 0xF#4 ++ 0#12 from rfl,
    BitVec.and_append, BitVec.and_zero, show 0xF#4 = BitVec.allOnes 4 from rfl, BitVec.and_allOnes]

/-- The key of a format XK word keeps the class. -/
theorem key_encXK (c : BitVec 4) (x : RegIdx) (nn : Byte) (h : classMask c = 0xF000) :
    dispatchKey (encXK c x nn) = c ++ 0#4 ++ 0#8 := by
  rw [dispatchKey, opClass_encXK, h, encXK, show (0xF000 : Word) = 0xF#4 ++ 0#4 ++ 0#8 from rfl,
    BitVec.and_append, BitVec.and_append, BitVec.and_zero, BitVec.and_zero,
    show 0xF#4 = BitVec.allOnes 4 from rfl, BitVec.and_allOnes]

/-- The key of a format XF word keeps the class and the function byte. -/
theorem key_encXF (c : BitVec 4) (x : RegIdx) (ff : Byte) (h : classMask c = 0xF0FF) :
    dispatchKey (encXK c x ff) = c ++ 0#4 ++ ff := by
  rw [dispatchKey, opClass_encXK, h, encXK, show (0xF0FF : Word) = 0xF#4 ++ 0#4 ++ 0xFF#8 from rfl,
    BitVec.and_append, BitVec.and_append, BitVec.and_zero,
    show 0xFF#8 = BitVec.allOnes 8 from rfl, BitVec.and_allOnes,
    show 0xF#4 = BitVec.allOnes 4 from rfl, BitVec.and_allOnes]

/-- The key of a format XY or XYN word keeps the class. -/
theorem key_encXYN (c : BitVec 4) (x y : RegIdx) (n : BitVec 4) (h : classMask c = 0xF000) :
    dispatchKey (encXYN c x y n) = c ++ 0#4 ++ 0#4 ++ 0#4 := by
  rw [dispatchKey, opClass_encXYN, h, encXYN, show (0xF000 : Word) = 0xF#4 ++ 0#4 ++ 0#4 ++ 0#4 from rfl,
    BitVec.and_append, BitVec.and_append, BitVec.and_append, BitVec.and_zero, BitVec.and_zero, BitVec.and_zero,
    show 0xF#4 = BitVec.allOnes 4 from rfl, BitVec.and_allOnes]

/-- The key of a format XYF word keeps the class and the function nibble. -/
theorem key_encXYF (c : BitVec 4) (x y : RegIdx) (f : BitVec 4) (h : classMask c = 0xF00F) :
    dispatchKey (encXYN c x y f) = c ++ 0#4 ++ 0#4 ++ f := by
  rw [dispatchKey, opClass_encXYN, h, encXYN, show (0xF00F : Word) = 0xF#4 ++ 0#4 ++ 0#4 ++ 0xF#4 from rfl,
    BitVec.and_append, BitVec.and_append, BitVec.and_append, BitVec.and_zero, BitVec.and_zero,
    show 0xF#4 = BitVec.allOnes 4 from rfl, BitVec.and_allOnes, BitVec.and_allOnes]

/-! ## One lemma per constructor -/

theorem KeyOfEncode.cls : KeyOfEncode.Statement (.cls) := rfl
theorem KeyOfEncode.ret : KeyOfEncode.Statement (.ret) := rfl
theorem KeyOfEncode.jpAddr (nnn : Addr) : KeyOfEncode.Statement (.jpAddr nnn) := key_encA _ nnn rfl
theorem KeyOfEncode.callAddr (nnn : Addr) : KeyOfEncode.Statement (.callAddr nnn) := key_encA _ nnn rfl
theorem KeyOfEncode.seVxNN (x : RegIdx) (nn : Byte) : KeyOfEncode.Statement (.seVxNN x nn) := key_encXK _ x nn rfl
theorem KeyOfEncode.sneVxNN (x : RegIdx) (nn : Byte) : KeyOfEncode.Statement (.sneVxNN x nn) := key_encXK _ x nn rfl
theorem KeyOfEncode.seVxVy (x : RegIdx) (y : RegIdx) : KeyOfEncode.Statement (.seVxVy x y) := key_encXYN _ x y _ rfl
theorem KeyOfEncode.ldVxNN (x : RegIdx) (nn : Byte) : KeyOfEncode.Statement (.ldVxNN x nn) := key_encXK _ x nn rfl
theorem KeyOfEncode.addVxNN (x : RegIdx) (nn : Byte) : KeyOfEncode.Statement (.addVxNN x nn) := key_encXK _ x nn rfl
theorem KeyOfEncode.ldVxVy (x : RegIdx) (y : RegIdx) : KeyOfEncode.Statement (.ldVxVy x y) := key_encXYF _ x y _ rfl
theorem KeyOfEncode.orVxVy (x : RegIdx) (y : RegIdx) : KeyOfEncode.Statement (.orVxVy x y) := key_encXYF _ x y _ rfl
theorem KeyOfEncode.andVxVy (x : RegIdx) (y : RegIdx) : KeyOfEncode.Statement (.andVxVy x y) := key_encXYF _ x y _ rfl
theorem KeyOfEncode.xorVxVy (x : RegIdx) (y : RegIdx) : KeyOfEncode.Statement (.xorVxVy x y) := key_encXYF _ x y _ rfl
theorem KeyOfEncode.addVxVy (x : RegIdx) (y : RegIdx) : KeyOfEncode.Statement (.addVxVy x y) := key_encXYF _ x y _ rfl
theorem KeyOfEncode.subVxVy (x : RegIdx) (y : RegIdx) : KeyOfEncode.Statement (.subVxVy x y) := key_encXYF _ x y _ rfl
theorem KeyOfEncode.shrVx (x : RegIdx) (y : RegIdx) : KeyOfEncode.Statement (.shrVx x y) := key_encXYF _ x y _ rfl
theorem KeyOfEncode.subnVxVy (x : RegIdx) (y : RegIdx) : KeyOfEncode.Statement (.subnVxVy x y) := key_encXYF _ x y _ rfl
theorem KeyOfEncode.shlVx (x : RegIdx) (y : RegIdx) : KeyOfEncode.Statement (.shlVx x y) := key_encXYF _ x y _ rfl
theorem KeyOfEncode.sneVxVy (x : RegIdx) (y : RegIdx) : KeyOfEncode.Statement (.sneVxVy x y) := key_encXYN _ x y _ rfl
theorem KeyOfEncode.ldIAddr (nnn : Addr) : KeyOfEncode.Statement (.ldIAddr nnn) := key_encA _ nnn rfl
theorem KeyOfEncode.jpV0Addr (nnn : Addr) : KeyOfEncode.Statement (.jpV0Addr nnn) := key_encA _ nnn rfl
theorem KeyOfEncode.rndVxNN (x : RegIdx) (nn : Byte) : KeyOfEncode.Statement (.rndVxNN x nn) := key_encXK _ x nn rfl
theorem KeyOfEncode.drwVxVyN (x : RegIdx) (y : RegIdx) (n : Fin 16) : KeyOfEncode.Statement (.drwVxVyN x y n) := key_encXYN _ x y _ rfl
theorem KeyOfEncode.skpVx (x : RegIdx) : KeyOfEncode.Statement (.skpVx x) := key_encXF _ x _ rfl
theorem KeyOfEncode.sknpVx (x : RegIdx) : KeyOfEncode.Statement (.sknpVx x) := key_encXF _ x _ rfl
theorem KeyOfEncode.ldVxDT (x : RegIdx) : KeyOfEncode.Statement (.ldVxDT x) := key_encXF _ x _ rfl
theorem KeyOfEncode.ldVxK (x : RegIdx) : KeyOfEncode.Statement (.ldVxK x) := key_encXF _ x _ rfl
theorem KeyOfEncode.ldDTVx (x : RegIdx) : KeyOfEncode.Statement (.ldDTVx x) := key_encXF _ x _ rfl
theorem KeyOfEncode.ldSTVx (x : RegIdx) : KeyOfEncode.Statement (.ldSTVx x) := key_encXF _ x _ rfl
theorem KeyOfEncode.addIVx (x : RegIdx) : KeyOfEncode.Statement (.addIVx x) := key_encXF _ x _ rfl
theorem KeyOfEncode.ldFVx (x : RegIdx) : KeyOfEncode.Statement (.ldFVx x) := key_encXF _ x _ rfl
theorem KeyOfEncode.ldBVx (x : RegIdx) : KeyOfEncode.Statement (.ldBVx x) := key_encXF _ x _ rfl
theorem KeyOfEncode.ldMemVx (x : RegIdx) : KeyOfEncode.Statement (.ldMemVx x) := key_encXF _ x _ rfl
theorem KeyOfEncode.ldVxMem (x : RegIdx) : KeyOfEncode.Statement (.ldVxMem x) := key_encXF _ x _ rfl
theorem KeyOfEncode.unknown (op : Word) : KeyOfEncode.Statement (.unknown op) := rfl

end Sys2Proof.Laws
end

