-- ==== Sys2Proof/Tests/Slice0.lean ====
section
/-! SUPPORT. Tests of the model, each about one decoding or one step, with the expected result taken from spec/ (the
comment names the vector of 95_test_vectors.md), and for every statement with hypotheses a witness that meets them. -/

namespace Sys2Proof.Tests

open Sys2Proof Sys2Proof.Machine

/-! ## Helpers -/

/-- The state of the spec's vectors: after reset, DF cleared, PC = a and the word at a (95_test_vectors.md, conventions). -/
def placed (a : Addr) (op : Word) : State :=
  ({ State.reset with pc := a, df := false } : State).withFetchWord 16 op.toNat

def withKey (s : State) (k : Fin 16) : State := hostSetKey k true s

def withStack (s : State) (sp : Byte) (k : Fin 16) (w : Word) : State := { s with sp := sp, stk := s.stk.set k w }

def lit (s : State) (x y : Nat) : State := { s with fb := FrameBuf.flip s.fb x y }

def withCfg (s : State) (f : Config → Config) : State := { s with cfg := f s.cfg }

def separate (s : State) : State := withCfg s fun c => { c with timerMode := .separate }

def nextIs (r : Result) (p : State → Bool) : Bool :=
  match r with
  | .next t => p t
  | _ => false

def faultIs (r : Result) (f : Fault) : Bool :=
  match r with
  | .fault g => g == f
  | _ => false

def refusedIs (r : Result) (c : Refusal) : Bool :=
  match r with
  | .refused d => d == c
  | _ => false

theorem exists_of_nextIs {r : Result} {p : State → Bool} (h : nextIs r p = true) : ∃ t, r = .next t ∧ p t = true := by
  cases r with
  | next t => exact ⟨t, rfl, h⟩
  | fault _ => cases h
  | refused _ => cases h

/-! ## Well-formedness: the one check refuses the one ill-formed kind of term -/

theorem test_unknown_of_an_instruction_word_refused : (Instr.unknown 0x00E0).wellFormed = false := by decide
theorem test_unknown_of_an_ignored_bits_word_refused : (Instr.unknown 0x5127).wellFormed = false := by decide
theorem test_unknown_word_wellFormed : (Instr.unknown 0x0123).wellFormed = true := by decide

/-! ## Decoding: one word per constructor, written bit by bit from the patterns of 30_encoding.md R66 -/

theorem test_decode_cls : decodeTableWord 16 0b0000000011100000 = some .cls := by decide
theorem test_decode_cls_ignored : decodeTableWord 16 0b0000101011100000 = some .cls := by decide
theorem test_decode_ret : decodeTableWord 16 0b0000000011101110 = some .ret := by decide
theorem test_decode_jpAddr : decodeTableWord 16 0b0001101010111100 = some (.jpAddr 0xABC) := by decide
theorem test_decode_callAddr : decodeTableWord 16 0b0010101010111100 = some (.callAddr 0xABC) := by decide
theorem test_decode_seVxNN : decodeTableWord 16 0b0011101000010010 = some (.seVxNN 0xA 0x12) := by decide
theorem test_decode_sneVxNN : decodeTableWord 16 0b0100101000010010 = some (.sneVxNN 0xA 0x12) := by decide
theorem test_decode_seVxVy : decodeTableWord 16 0b0101101010110000 = some (.seVxVy 0xA 0xB) := by decide
theorem test_decode_seVxVy_ignored : decodeTableWord 16 0b0101101010110111 = some (.seVxVy 0xA 0xB) := by decide
theorem test_decode_ldVxNN : decodeTableWord 16 0b0110101001111111 = some (.ldVxNN 0xA 0x7F) := by decide
theorem test_decode_addVxNN : decodeTableWord 16 0b0111001100000010 = some (.addVxNN 0x3 0x02) := by decide
theorem test_decode_ldVxVy : decodeTableWord 16 0b1000000100100000 = some (.ldVxVy 0x1 0x2) := by decide
theorem test_decode_orVxVy : decodeTableWord 16 0b1000000100100001 = some (.orVxVy 0x1 0x2) := by decide
theorem test_decode_andVxVy : decodeTableWord 16 0b1000000100100010 = some (.andVxVy 0x1 0x2) := by decide
theorem test_decode_xorVxVy : decodeTableWord 16 0b1000000100100011 = some (.xorVxVy 0x1 0x2) := by decide
theorem test_decode_addVxVy : decodeTableWord 16 0b1000000111110100 = some (.addVxVy 0x1 0xF) := by decide
theorem test_decode_subVxVy : decodeTableWord 16 0b1000000100100101 = some (.subVxVy 0x1 0x2) := by decide
theorem test_decode_shrVx : decodeTableWord 16 0b1000000100100110 = some (.shrVx 0x1 0x2) := by decide
theorem test_decode_subnVxVy : decodeTableWord 16 0b1000000100100111 = some (.subnVxVy 0x1 0x2) := by decide
theorem test_decode_shlVx : decodeTableWord 16 0b1000000100101110 = some (.shlVx 0x1 0x2) := by decide
theorem test_decode_sneVxVy : decodeTableWord 16 0b1001101010110000 = some (.sneVxVy 0xA 0xB) := by decide
theorem test_decode_ldIAddr : decodeTableWord 16 0b1010000100100011 = some (.ldIAddr 0x123) := by decide
theorem test_decode_jpV0Addr : decodeTableWord 16 0b1011001100000000 = some (.jpV0Addr 0x300) := by decide
theorem test_decode_rndVxNN : decodeTableWord 16 0b1100000100001111 = some (.rndVxNN 0x1 0x0F) := by decide
theorem test_decode_drwVxVyN : decodeTableWord 16 0b1101000100100101 = some (.drwVxVyN 0x1 0x2 0x5) := by decide
theorem test_decode_skpVx : decodeTableWord 16 0b1110000110011110 = some (.skpVx 0x1) := by decide
theorem test_decode_sknpVx : decodeTableWord 16 0b1110000110100001 = some (.sknpVx 0x1) := by decide
theorem test_decode_ldVxDT : decodeTableWord 16 0b1111000100000111 = some (.ldVxDT 0x1) := by decide
theorem test_decode_ldVxK : decodeTableWord 16 0b1111001000001010 = some (.ldVxK 0x2) := by decide
theorem test_decode_ldDTVx : decodeTableWord 16 0b1111000100010101 = some (.ldDTVx 0x1) := by decide
theorem test_decode_ldSTVx : decodeTableWord 16 0b1111000100011000 = some (.ldSTVx 0x1) := by decide
theorem test_decode_addIVx : decodeTableWord 16 0b1111000000011110 = some (.addIVx 0x0) := by decide
theorem test_decode_ldFVx : decodeTableWord 16 0b1111000000101001 = some (.ldFVx 0x0) := by decide
theorem test_decode_ldBVx : decodeTableWord 16 0b1111000000110011 = some (.ldBVx 0x0) := by decide
theorem test_decode_ldMemVx : decodeTableWord 16 0b1111001001010101 = some (.ldMemVx 0x2) := by decide
theorem test_decode_ldVxMem : decodeTableWord 16 0b1111001001100101 = some (.ldVxMem 0x2) := by decide
theorem test_decode_unknown : decodeTableWord 16 0b1000000101001111 = some (.unknown 0x814F) := by decide
theorem test_decode_truncated : decode [0x12] = .error .truncated := by decide
theorem test_decode_big_endian : decode [0xA1, 0x23, 0x55] = .ok (.ldIAddr 0x123, [0x55]) := by decide

/-! ## One step each, from the vectors -/

-- DR2, DR1
theorem test_cls : nextIs (step (lit (placed 0x200 0x0AE0) 63 31))
    (fun t => t.fb == State.reset.fb && t.df && t.pc == 0x202) = true := by decide
-- F1
theorem test_ret : nextIs (step (withStack (placed 0x300 0x00EE) 1 0 0x0ABC))
    (fun t => t.pc == 0xABC && t.sp == 0 && t.stkAt 0 == 0x0ABC) = true := by decide
-- F2
theorem test_ret_underflow : faultIs (step (placed 0x200 0x00EE)) (.stackUnderflow 0x200 0x00EE) = true := by decide
-- F4
theorem test_jpAddr : nextIs (step (placed 0x200 0x1ABC)) (fun t => t.pc == 0xABC) = true := by decide
-- F27: the fetch wraps to the first font byte
theorem test_fetch_wraps : nextIs (step (({ State.reset with pc := 0xFFF } : State).writeBytes 0xFFF [0x12]))
    (fun t => t.pc == 0x2F0) = true := by decide
-- F7
theorem test_callAddr : nextIs (step { placed 0x400 0x2ABC with sp := 15 })
    (fun t => t.pc == 0xABC && t.sp == 16 && t.stkAt 15 == 0x0402 && t.stkAt 14 == 0) = true := by decide
-- F8
theorem test_callAddr_overflow :
    faultIs (step { placed 0x200 0x2ABC with sp := 16 }) (.stackOverflow 0x200 0x2ABC) = true := by decide
-- F10, F11
theorem test_seVxNN : nextIs (step ((placed 0x200 0x3A12).setV 0xA 0x12)) (fun t => t.pc == 0x204) = true := by decide
-- F21: a skip wraps
theorem test_seVxNN_wraps : nextIs (step (placed 0xFFC 0x3000)) (fun t => t.pc == 0x000) = true := by decide
-- F12
theorem test_sneVxNN : nextIs (step ((placed 0x200 0x4A12).setV 0xA 0x12)) (fun t => t.pc == 0x202) = true := by decide
-- F13
theorem test_sneVxNN_taken : nextIs (step ((placed 0x200 0x4A12).setV 0xA 0x13)) (fun t => t.pc == 0x204) = true := by
  decide
-- F16, F15
theorem test_seVxVy : nextIs (step (((placed 0x200 0x5AB7).setV 0xA 7).setV 0xB 7)) (fun t => t.pc == 0x204) = true := by
  decide
theorem test_seVxVy_untaken :
    nextIs (step (((placed 0x200 0x5AB0).setV 0xA 7).setV 0xB 8)) (fun t => t.pc == 0x202) = true := by decide
-- A2
theorem test_ldVxNN : nextIs (step (placed 0x200 0x6F01)) (fun t => t.getV VF == 1 && t.pc == 0x202) = true := by decide
-- A3: no carry flag
theorem test_addVxNN : nextIs (step ((placed 0x200 0x7302).setV 3 0xFF))
    (fun t => t.getV 3 == 1 && t.getV VF == 0) = true := by decide
-- A6
theorem test_ldVxVy : nextIs (step (((placed 0x200 0x8120).setV 1 0x12).setV 2 0x34))
    (fun t => t.getV 1 == 0x34 && t.getV 2 == 0x34) = true := by decide
-- A7: VF is not cleared
theorem test_orVxVy : nextIs (step ((((placed 0x200 0x8121).setV 1 0x12).setV 2 0x34).setV VF 1))
    (fun t => t.getV 1 == 0x36 && t.getV VF == 1) = true := by decide
-- A8
theorem test_andVxVy : nextIs (step (((placed 0x200 0x8122).setV 1 0x12).setV 2 0x34))
    (fun t => t.getV 1 == 0x10) = true := by decide
-- A9
theorem test_xorVxVy : nextIs (step (((placed 0x200 0x8123).setV 1 0x12).setV 2 0x34))
    (fun t => t.getV 1 == 0x26) = true := by decide
-- A11, the source's example S4
theorem test_addVxVy : nextIs (step (((placed 0x200 0x8124).setV 1 0xFF).setV 2 0x01))
    (fun t => t.getV 1 == 0 && t.getV 2 == 1 && t.getV VF == 1) = true := by decide
-- A16: VF is the destination
theorem test_addVxVy_into_VF : nextIs (step (((placed 0x200 0x8F14).setV VF 0xF0).setV 1 0x20))
    (fun t => t.getV 1 == 0x20 && t.getV VF == 0x21) = true := by decide
-- A19, the source's example S5
theorem test_subVxVy : nextIs (step ((((placed 0x200 0x8125).setV 1 1).setV 2 2).setV VF 1))
    (fun t => t.getV 1 == 0xFF && t.getV VF == 0) = true := by decide
-- A25: VF is the subtrahend
theorem test_subVxVy_of_VF : nextIs (step (((placed 0x200 0x81F5).setV 1 5).setV VF 9))
    (fun t => t.getV 1 == 5 && t.getV VF == 0) = true := by decide
-- A27: V2 is not read
theorem test_shrVx : nextIs (step (((placed 0x200 0x8126).setV 1 5).setV 2 0xFF))
    (fun t => t.getV 1 == 2 && t.getV 2 == 0xFF && t.getV VF == 1) = true := by decide
-- A31: the flag itself is shifted
theorem test_shrVx_of_VF : nextIs (step ((placed 0x200 0x8F06).setV VF 3)) (fun t => t.getV VF == 0) = true := by decide
-- A33
theorem test_subnVxVy : nextIs (step (((placed 0x200 0x8127).setV 1 2).setV 2 5))
    (fun t => t.getV 1 == 3 && t.getV 2 == 5 && t.getV VF == 1) = true := by decide
-- A37: the flag is the minuend
theorem test_subnVxVy_of_VF : nextIs (step (((placed 0x200 0x81F7).setV 1 5).setV VF 9))
    (fun t => t.getV 1 == 0xFC && t.getV VF == 1) = true := by decide
-- A38
theorem test_shlVx : nextIs (step (((placed 0x200 0x812E).setV 1 0x81).setV 2 0xFF))
    (fun t => t.getV 1 == 2 && t.getV 2 == 0xFF && t.getV VF == 1) = true := by decide
-- A41
theorem test_shlVx_of_VF : nextIs (step ((placed 0x200 0x8F0E).setV VF 0x80)) (fun t => t.getV VF == 2) = true := by
  decide
-- F18, F20
theorem test_sneVxVy : nextIs (step (((placed 0x200 0x9AB0).setV 0xA 7).setV 0xB 8)) (fun t => t.pc == 0x204) = true := by
  decide
theorem test_sneVxVy_same : nextIs (step ((placed 0x200 0x9AA0).setV 0xA 0x55)) (fun t => t.pc == 0x202) = true := by
  decide
-- M1
theorem test_ldIAddr : nextIs (step ((placed 0x200 0xA123).setI 0xFFFF)) (fun t => t.i == 0x0123) = true := by decide
-- F25: modulo 4096
theorem test_jpV0Addr : nextIs (step ((placed 0x200 0xBFFF).setV 0 0xFF)) (fun t => t.pc == 0x0FE) = true := by decide
-- A44: every random byte ANDed with 0
theorem test_rndVxNN_zero : ∀ s : State, nextIs (execRndVxNN 1 0x00 s) (fun t => t.getV 1 == 0) = true := by
  intro s; simp [execRndVxNN, nextIs, State.getV, State.setV]
-- DR11, DR3: the column is VF before the draw
theorem test_drwVxVyN : nextIs (step (((((placed 0x200 0xDF11).setI 0x300).writeBytes 0x300 [0x80]).setV VF 3).setV 1 2))
    (fun t => t.fb == FrameBuf.flip State.reset.fb 3 2 && t.getV VF == 0 && t.df && t.i == 0x300) = true := by decide
-- DR4, the source's example S6
theorem test_drwVxVyN_collision :
    nextIs (step (lit ((((placed 0x200 0xD121).setI 0x300).writeBytes 0x300 [0x80]).setV 1 10 |>.setV 2 5) 10 5))
    (fun t => t.fb == State.reset.fb && t.getV VF == 1 && t.df) = true := by decide
-- K3: the low 4 bits
theorem test_skpVx : nextIs (step (withKey ((placed 0x200 0xE19E).setV 1 0x13) 3)) (fun t => t.pc == 0x204) = true := by
  decide
-- K5
theorem test_sknpVx : nextIs (step (withKey ((placed 0x200 0xE1A1).setV 1 0x03) 4)) (fun t => t.pc == 0x204) = true := by
  decide
-- K6
theorem test_sknpVx_held : nextIs (step (withKey ((placed 0x200 0xE1A1).setV 1 0xFF) 15)) (fun t => t.pc == 0x202) = true := by
  decide
-- K10: read before the tick of its own cycle
theorem test_ldVxDT : nextIs (step { placed 0x200 0xF107 with dt := 0x2A })
    (fun t => t.getV 1 == 0x2A && t.dt == 0x29) = true := by decide
-- K7: a waiting cycle still ticks
theorem test_ldVxK_waits : nextIs (step { (placed 0x200 0xF20A).setV 2 0x55 with dt := 5 })
    (fun t => t.pc == 0x200 && t.getV 2 == 0x55 && t.dt == 4) = true := by decide
-- K8: the lowest pressed key
theorem test_ldVxK : nextIs (step (withKey (withKey ((placed 0x200 0xF20A).setV 2 0x55) 9) 4))
    (fun t => t.pc == 0x202 && t.getV 2 == 4) = true := by decide
-- K12, and K12 in separate mode
theorem test_ldDTVx : nextIs (step ((placed 0x200 0xF115).setV 1 0x0A)) (fun t => t.dt == 9) = true := by decide
theorem test_ldDTVx_separate : nextIs (step (separate ((placed 0x200 0xF115).setV 1 0x0A))) (fun t => t.dt == 10) = true := by
  decide
-- K15
theorem test_ldSTVx : nextIs (step ((placed 0x200 0xF118).setV 1 1)) (fun t => t.st == 0 && t.tone) = true := by decide
-- K17: the write of 0 precedes the tick
theorem test_ldSTVx_zero : nextIs (step { placed 0x200 0xF118 with st := 1 }) (fun t => t.st == 0 && !t.tone) = true := by
  decide
-- M4
theorem test_addIVx : nextIs (step (((placed 0x200 0xF01E).setI 0xFFFF).setV 0 2))
    (fun t => t.i == 1 && t.getV VF == 1) = true := by decide
-- M5: the operand is VF before the flag
theorem test_addIVx_of_VF : nextIs (step (((placed 0x200 0xFF1E).setI 0x0100).setV VF 0x10))
    (fun t => t.i == 0x0110 && t.getV VF == 0) = true := by decide
-- M8
theorem test_ldFVx : nextIs (step ((placed 0x200 0xF029).setV 0 0xFF)) (fun t => t.i == 0x04FB) = true := by decide
-- M10
theorem test_ldBVx : nextIs (step (((placed 0x200 0xF033).setI 0x300).setV 0 0xFF))
    (fun t => t.readByte 0x300 == 2 && t.readByte 0x301 == 5 && t.readByte 0x302 == 5 && t.i == 0x300) = true := by decide
-- M12: across the top of memory, over the font
theorem test_ldBVx_wraps : nextIs (step (((placed 0x200 0xF033).setI 0xFFF).setV 0 7))
    (fun t => t.readByte 0xFFF == 0 && t.readByte 0 == 0 && t.readByte 1 == 7) = true := by decide
-- M13
theorem test_ldMemVx :
    nextIs (step (((((((placed 0x200 0xF255).setI 0x300).setV 0 0x11).setV 1 0x22).setV 2 0x33).setV 3 0x44)))
    (fun t => t.readByte 0x300 == 0x11 && t.readByte 0x302 == 0x33 && t.readByte 0x303 == 0 && t.i == 0x303) = true := by
  decide
-- M19: the store is seen by the next fetch
theorem test_ldMemVx_fetched : nextIs (step ((((placed 0x200 0xF155).setI 0x202).setV 0 0x12).setV 1 0x02))
    (fun t => fetchOpcode t == 0x1202 && t.i == 0x204) = true := by decide
-- M17
theorem test_ldVxMem : nextIs (step (((placed 0x200 0xF365).setI 0xFFE).writeBytes 0xFFE [0x11, 0x22]))
    (fun t => t.getV 0 == 0x11 && t.getV 1 == 0x22 && t.getV 2 == 0xF0 && t.getV 3 == 0x90 && t.i == 0x1002) = true := by
  decide
-- X1 to X14, here X2
theorem test_unknown : nextIs (step { (placed 0x200 0x0123).setV 1 7 with dt := 2, st := 1 })
    (fun t => t.pc == 0x202 && t.dt == 1 && t.st == 0 && t.tone && t.getV 1 == 7 && !t.df) = true := by decide
-- S3: empty memory after reset
theorem test_reset_runs : nextIs (step State.reset) (fun t => t == { State.reset with pc := 0x202, draws := 1 }) = true := by
  decide
-- the instruction placed at PC is the first one run after reset
theorem test_core_runs_placed : nextIs (core.step (core.reset.withFetchWord 16 0x6A7F)) (fun t => t.getV 0xA == 0x7F) = true := by
  decide

/-! ## Host operations -/

-- H1: the font is reinstalled, the rest of memory zeroed
theorem test_host_reset : nextIs (hostApply .reset (((placed 0x300 0x1234).setV 3 7).writeBytes 0 [0]))
    (fun t => t == State.reset) = true := by decide
-- H2
theorem test_host_load : nextIs (hostApply (.load [0xA2, 0x0E]) ((placed 0x300 0).setV 3 7))
    (fun t => t.readByte 0x200 == 0xA2 && t.readByte 0x201 == 0x0E && t.getV 3 == 0 && t.pc == 0x200) = true := by decide
-- H5, H7
theorem test_host_set_key : nextIs (hostApply (.setKey 5 true) State.reset) (fun t => t.keyAt 5 && !t.keyAt 4) = true := by
  decide
theorem test_host_set_key_16 : refusedIs (hostApply (.setKey 16 true) State.reset) .setKeyIndex = true := by decide
-- H8
theorem test_host_clear_df : nextIs (hostApply .clearDF State.reset) (fun t => !t.df) = true := by decide
-- H9
theorem test_host_tick : nextIs (hostApply .tick (separate { State.reset with st := 1 }))
    (fun t => t.st == 0 && t.dt == 0 && t.tone) = true := by decide

/-! ## Witnesses: for each statement with hypotheses, operands and states that meet them, one per clause

Where a hypothesis says that exec or step answers a next state, the witness is the run itself. -/

/-- Every switch at the alternative that makes a cycle fault (93_implementation_defined.md U2 to U5). -/
def strictFaults (s : State) : State :=
  withCfg s fun c => { c with addrOverrun := .fault, drwOffscreen := .fault, keyIndex := .fault, pcOverrun := .fault }

/-- Every switch at the alternative that refuses (U6, U7, U9). -/
def strictRefusals (s : State) : State :=
  withCfg s fun c => { c with vfAlias := .refuse, drwVfCoord := .refuse, nonCanonical := .refuse }

theorem witness_DecodeEncodeAgree :
    (Instr.drwVxVyN 0xF 0xF 0xF).wellFormed = true ∧ (Instr.unknown 0x00EF).wellFormed = true ∧
    (Instr.jpAddr 0xFFF).wellFormed = true := by decide

theorem witness_EncodeDecodeAgree : canonical 0x8FF6 = true ∧ canonical 0x9AB0 = true ∧ canonical 0x00E0 = true := by decide

theorem witness_OpcodeMapIsClosed :
    (opMap.map Prod.fst).getLast? = some 0xF065 ∧ dispatchKey 0xFF65 = 0xF065 ∧ dispatchKey 0xFF66 ∉ opKeys := by decide

theorem witness_UnknownOpcodesExactly :
    decodeWord 0x00E1 = .unknown 0x00E1 ∧ decodeWord 0x800F = .unknown 0x800F ∧ decodeWord 0xE0A2 = .unknown 0xE0A2 ∧
    decodeWord 0xF066 = .unknown 0xF066 := by decide

/-- The bytes at PC decode to CALL, at the last PC and under the default switches; exec answers a next state. -/
theorem witness_StepRunsDecodedInstruction_next :
    let s := ({ State.reset with pc := 0xFFF } : State).withFetchWord 16 0x2ABC
    decode [s.readByte s.pc.toNat, s.readByte (s.pc.toNat + 1)] = .ok (.callAddr 0xABC, []) ∧
    (Instr.callAddr 0xABC).wellFormed = true ∧ DefaultSwitches s ∧ s.cfg.timerMode = .perCycle ∧
    (separate s).cfg.timerMode = .separate ∧ DefaultSwitches (separate s) ∧
    nextIs (exec (.callAddr 0xABC) { s with pc := s.pc + 2 }) (fun _ => true) = true := by
  unfold DefaultSwitches; decide

/-- The same with a fault under the strict switches (at the last PC they let through), and with a refusal. -/
theorem witness_StepRunsDecodedInstruction_stop :
    let s := strictFaults ({ State.reset with pc := 0xFFD } : State) |>.withFetchWord 16 0x00EE
    let u := strictRefusals State.reset |>.withFetchWord 16 0x8F14
    decode [s.readByte s.pc.toNat, s.readByte (s.pc.toNat + 1)] = .ok (.ret, []) ∧
    fetchCheck s = none ∧ decodeCheck s = none ∧
    faultIs (exec .ret { s with pc := s.pc + 2 }) (.stackUnderflow 0xFFD 0x00EE) = true ∧
    decode [u.readByte u.pc.toNat, u.readByte (u.pc.toNat + 1)] = .ok (.addVxVy 0xF 0x1, []) ∧
    fetchCheck u = none ∧ decodeCheck u = none ∧
    refusedIs (exec (.addVxVy 0xF 0x1) { u with pc := u.pc + 2 }) .vfAlias = true := by decide

theorem witness_UnknownOpcodeCycle :
    let s := placed 0xFFE 0x00EF
    fetchOpcode s = 0x00EF ∧ decodeWord 0x00EF = .unknown 0x00EF ∧ DefaultSwitches s ∧ s.cfg.timerMode = .perCycle ∧
    fetchOpcode (separate s) = 0x00EF ∧ DefaultSwitches (separate s) ∧ (separate s).cfg.timerMode = .separate := by
  unfold DefaultSwitches; decide

theorem witness_FetchIsBigEndian : (List.replicate 3582 (0xFF : Byte)).length ≤ 3582 := by
  rw [List.length_replicate]

theorem witness_StoreSeenByNextFetch : Memory.wf State.reset.mem = true ∧ Memory.wf (placed 0xFFF 0x1234).mem = true := by
  decide

theorem witness_AddressesWrap : Memory.wf (State.reset.writeBytes 0xFFF [0x77, 0x00]).mem = true := by decide

theorem witness_TickPlacement :
    let s := { placed 0x200 0xF118 with dt := 1 }
    s.cfg.timerMode = .perCycle ∧ (separate s).cfg.timerMode = .separate ∧
    nextIs (exec (decodeWord (fetchOpcode s)) (advance s)) (fun _ => true) = true ∧
    nextIs (step s) (fun _ => true) = true ∧
    nextIs (exec (decodeWord (fetchOpcode (separate s))) (advance (separate s))) (fun _ => true) = true ∧
    nextIs (step (separate s)) (fun _ => true) = true := by decide

theorem witness_TimerWriteThenTick :
    let s := placed 0x200 0xFF15
    let t := placed 0x200 0xF018
    let u := strictFaults (placed 0xFFD 0xF107)
    s.cfg.timerMode = .perCycle ∧ DefaultSwitches s ∧ decodeWord (fetchOpcode s) = .ldDTVx 0xF ∧
    t.cfg.timerMode = .perCycle ∧ DefaultSwitches t ∧ decodeWord (fetchOpcode t) = .ldSTVx 0x0 ∧
    u.cfg.timerMode = .perCycle ∧ fetchCheck u = none ∧ decodeCheck u = none ∧
    decodeWord (fetchOpcode u) = .ldVxDT 0x1 := by
  unfold DefaultSwitches; decide

/-- The invariant at its bounds (SP = 16, a stack entry 0xFFF, a byte at 0xFFF), and a step from there. -/
theorem witness_EveryStepKeepsInv :
    let s := (withStack (placed 0x200 0x00EE) 16 15 0x0FFF).writeBytes 0xFFF [0xFF]
    StateInv s ∧ nextIs (step s) (fun t => t.pc == 0xFFF) = true := by
  unfold StateInv; decide

theorem witness_HostOperationsKeepInv :
    StateInv State.reset ∧ nextIs (hostApply (.load [0x12, 0x00]) State.reset) (fun _ => true) = true ∧
    nextIs (hostApply .step State.reset) (fun _ => true) = true ∧
    nextIs (hostApply (.setKey 15 true) State.reset) (fun _ => true) = true ∧
    nextIs (hostApply .tick (separate State.reset)) (fun _ => true) = true := by
  unfold StateInv; decide

/-- A state for each clause: CALL at SP = 16, RET at SP = 0, and neither (RET at SP = 16). -/
theorem witness_FaultsAreComplete :
    let s := { placed 0x200 0x2ABC with sp := 16 }
    let t := placed 0x200 0x00EE
    let u := { placed 0x200 0x00EE with sp := 16 }
    DefaultSwitches s ∧ s.sp.toNat ≤ 16 ∧ decodeWord (fetchOpcode s) = .callAddr 0xABC ∧ s.sp = 16 ∧
    DefaultSwitches t ∧ t.sp.toNat ≤ 16 ∧ decodeWord (fetchOpcode t) = .ret ∧ t.sp = 0 ∧
    DefaultSwitches u ∧ u.sp.toNat ≤ 16 ∧ decodeWord (fetchOpcode u) = .ret ∧ u.sp ≠ 0 := by
  unfold DefaultSwitches; decide

theorem witness_FaultsAreComplete_noFault : ¬ FaultCondition { placed 0x200 0x00EE with sp := 16 } := by
  rintro (⟨⟨nnn, h⟩, -⟩ | ⟨-, h⟩)
  · have e : decodeWord (fetchOpcode { placed 0x200 0x00EE with sp := 16 }) = .ret := by decide
    rw [e] at h; cases h
  · exact absurd h (by decide)

theorem witness_StepKeepsKeysAndParameters :
    nextIs (step (withKey (strictFaults (placed 0x200 0xF00A)) 15)) (fun t => t.getV 0 == 15) = true := by decide

theorem witness_OnlyClsAndDrwTouchDisplay :
    nextIs (step (placed 0x200 0x00E0)) (fun t => t.df != (placed 0x200 0x00E0).df) = true ∧
    nextIs (step ((placed 0x200 0xD015).setI 0)) (fun t => t.fb != State.reset.fb) = true ∧
    decodeWord (fetchOpcode ((placed 0x200 0xD015).setI 0)) = .drwVxVyN 0 1 5 ∧
    nextIs (step State.reset) (fun t => t.df) = true := by decide

/-- A byte changed at the first and at the last address a store touches, the latter across the top of memory. -/
theorem witness_OnlyStoresChangeMemory :
    nextIs (step (((placed 0x200 0xF033).setI 0xFFE).setV 0 7)) (fun t => t.readByte 0 != State.reset.readByte 0) = true ∧
    nextIs (step (((placed 0x200 0xFF55).setI 0xFF0).setV 0xF 7))
      (fun t => t.readByte 0xFFF != State.reset.readByte 0xFFF) = true := by decide

theorem witness_OnlyCallAndRetTouchStack :
    nextIs (step { placed 0x200 0x2ABC with sp := 15 }) (fun t => t.sp == 16 && t.stkAt 15 != State.reset.stkAt 15) = true ∧
    nextIs (step { placed 0x200 0x00EE with sp := 16 }) (fun t => t.sp == 15) = true := by decide

theorem witness_DrawFlagAndToneGateNothing :
    faultIs (step (placed 0x200 0x00EE)) (.stackUnderflow 0x200 0x00EE) = true ∧
    refusedIs (step (strictRefusals (placed 0x200 0x0AE0))) .nonCanonical = true ∧
    nextIs (step (placed 0x200 0x00E0)) (fun t => t.df) = true := by decide

theorem witness_ResetState :
    State.reset.pixel 63 31 = false ∧ State.reset.readByte 79 = 0x80 ∧ State.reset.readByte 80 = 0 ∧
    State.reset.readByte 4095 = 0 := by decide

/-- Two different states with the same parameters and the same number of the draw. -/
theorem witness_ResetIsTotal :
    State.reset.cfg = ((placed 0x300 0x1234).setV 3 7).cfg ∧ State.reset.draws = ((placed 0x300 0x1234).setV 3 7).draws ∧
    (placed 0x300 0x1234).setV 3 7 ≠ State.reset := by decide

/-- The largest ROM that fits, the smallest that does not, and the bounds of the ranges for a ROM of two bytes. -/
theorem witness_LoadCopiesRom :
    (List.replicate 3584 (0xFF : Byte)).length ≤ 3584 ∧ 3584 < (List.replicate 3585 (0xFF : Byte)).length ∧
    (1 : Nat) < ([0x12, 0x00] : List Byte).length ∧ 0x200 + ([0x12, 0x00] : List Byte).length ≤ 0x202 ∧
    (0x1FF : Nat) < 0x200 := by
  rw [List.length_replicate, List.length_replicate]; decide

/-- Every host operation of the clause: a cycle of LD Vx,K that reads the latch, set_key of another index, clear_df and
the tick of separate mode. -/
theorem witness_SetKeyWritesOneLatch :
    let t := hostSetKey 15 true (separate (placed 0x200 0xF00A))
    (14 : Fin 16) ≠ 15 ∧ (∀ o ∈ [HostOp.step, .setKey 14 true, .clearDF, .tick],
      o ≠ .reset ∧ nextIs (hostApply o t) (fun u => u.keyAt 15) = true) ∧
    (∀ o ∈ [HostOp.step, .setKey 14 true, .clearDF, .tick],
      (∀ bytes, o ≠ .load bytes) ∧ ∀ q, o ≠ .setKey 15 q) := by
  refine ⟨by decide, by decide, fun o ho => ?_⟩
  simp only [List.mem_cons, List.not_mem_nil, or_false] at ho
  rcases ho with rfl | rfl | rfl | rfl <;> simp

theorem witness_ClearDrawFlagAndReadBack : 16 ≤ 16 ∧ (63 : Nat) < 64 ∧ (31 : Nat) < 32 := by decide

theorem witness_StoppedStaysStopped :
    Stopped (placed 0x200 0x1200) ∧ DefaultSwitches (placed 0x200 0x1200) ∧
    Stopped (strictFaults (placed 0xFFD 0x1FFD)) ∧ fetchCheck (strictFaults (placed 0xFFD 0x1FFD)) = none ∧
    decodeCheck (strictFaults (placed 0xFFD 0x1FFD)) = none := by
  unfold Stopped DefaultSwitches; decide

/-- VF as an operand under the default switch, and other operands under the refusing one; so for the next two. -/
theorem witness_AddVxVyCarry : State.reset.cfg.vfAlias = .literal ∧ (0xE : RegIdx) ≠ VF ∧ (0 : RegIdx) ≠ VF := by decide

theorem witness_SubAndSubnNoBorrow : State.reset.cfg.vfAlias = .literal ∧ (0xE : RegIdx) ≠ VF ∧ (0 : RegIdx) ≠ VF := by decide

theorem witness_ShrAndShlByOne : State.reset.cfg.vfAlias = .literal ∧ (0xE : RegIdx) ≠ VF := by decide

theorem witness_LdBVxStoresDigits :
    Memory.wf (State.reset.setI 0xFFFF).mem = true ∧ (State.reset.setI 0xFFFF).cfg.addrOverrun = .wrap ∧
    Memory.wf (strictFaults (State.reset.setI 0xFFD)).mem = true ∧
    (strictFaults (State.reset.setI 0xFFD)).i.toNat + 2 ≤ 0xFFF := by decide

theorem witness_LdMemVxStoresRegisters :
    Memory.wf (State.reset.setI 0xFFFF).mem = true ∧ (State.reset.setI 0xFFFF).cfg.addrOverrun = .wrap ∧
    Memory.wf (strictFaults (State.reset.setI 0xFF0)).mem = true ∧
    (strictFaults (State.reset.setI 0xFF0)).i.toNat + (0xF : RegIdx).val ≤ 0xFFF := by decide

theorem witness_LdVxMemLoadsRegisters :
    (State.reset.setI 0xFFFF).cfg.addrOverrun = .wrap ∧
    (strictFaults (State.reset.setI 0xFF0)).i.toNat + (0xF : RegIdx).val ≤ 0xFFF := by decide

/-- A store of V[0..F] across the top of memory, and the state after it with I put back. -/
theorem witness_StoreLoadRoundTrip :
    let s := (State.reset.setI 0xFF8).setV 0xF 0x77
    ∃ t u : State, Memory.wf s.mem = true ∧ exec (.ldMemVx 0xF) s = .next t ∧ u.mem = t.mem ∧ u.i = s.i ∧ u.cfg = s.cfg := by
  refine ⟨((State.reset.setI 0xFF8).setV 0xF 0x77).writeBytes 0xFF8 (regsUpTo ((State.reset.setI 0xFF8).setV 0xF 0x77) 0xF)
    |>.setI 0x1008, State.reset.writeBytes 0xFF8 (regsUpTo ((State.reset.setI 0xFF8).setV 0xF 0x77) 0xF) |>.setI 0xFF8,
    by decide, rfl, rfl, rfl, rfl⟩

theorem witness_JpV0AddrAddsV0 :
    State.reset.cfg.pcOverrun = .wrap ∧
    (0xF00 : Addr).toNat + ((strictFaults (State.reset.setV 0 0xFF)).getV 0).toNat ≤ 0xFFF := by decide

theorem witness_CallAddrPushes :
    ({ State.reset with sp := 15 } : State).sp.toNat < 16 ∧ ({ State.reset with sp := 16 } : State).sp = 16 ∧
    16 < ({ State.reset with sp := 17 } : State).sp.toNat := by decide

theorem witness_RetPops :
    ({ State.reset with sp := 1 } : State).sp.toNat = (0 : Fin 16).val + 1 ∧
    ({ State.reset with sp := 16 } : State).sp.toNat = (15 : Fin 16).val + 1 ∧ State.reset.sp = 0 ∧
    16 < ({ State.reset with sp := 17 } : State).sp.toNat := by decide

theorem witness_CallThenRetRestores :
    ∃ s t u : State, exec (.callAddr 0xFFF) s = .next t ∧ u.sp = t.sp ∧ u.stk = t.stk ∧ s.sp = 15 :=
  ⟨{ State.reset with sp := 15 }, (({ State.reset with sp := 15 } : State).pushPC.setPC 0xFFF),
    (({ State.reset with sp := 15 } : State).pushPC.setPC 0xABC), rfl, rfl, rfl, rfl⟩

theorem witness_RegisterSkips :
    State.reset.cfg.pcOverrun = .wrap ∧
    (strictFaults { State.reset with pc := 0xFFD }).pc.toNat + 2 ≤ 0xFFF := by decide

theorem witness_UntakenSkipsDoNothing :
    (State.reset.setV 0xF 0xFF).getV 0xF ≠ 0xFE ∧ (State.reset.setV 0xF 0xFF).getV 0xF = 0xFF ∧
    (State.reset.setV 0xF 0xFF).getV 0xF ≠ (State.reset.setV 0xF 0xFF).getV 0 ∧
    State.reset.getV 0xF = State.reset.getV 0 := by decide

/-- Key 15 through V[X] = 0xFF under the default switches; under the strict ones V[X] = 15, with the last PC that may
skip, and with a PC that may not and the key released (for SKP) or held (for SKNP). -/
theorem witness_KeySkips :
    let s := State.reset.setV 1 0xFF
    let t := strictFaults { (State.reset.setV 1 15) with pc := 0xFFD }
    let u := strictFaults { (State.reset.setV 1 15) with pc := 0xFFF }
    (15 : Fin 16).val = (s.getV 1).toNat % 16 ∧ s.cfg.keyIndex = .low4 ∧ s.cfg.pcOverrun = .wrap ∧
    (15 : Fin 16).val = (t.getV 1).toNat % 16 ∧ (t.getV 1).toNat ≤ 15 ∧ t.pc.toNat + 2 ≤ 0xFFF ∧
    (15 : Fin 16).val = (u.getV 1).toNat % 16 ∧ (u.getV 1).toNat ≤ 15 ∧ u.keyAt 15 = false ∧
    (withKey u 15).keyAt 15 = true := by decide

theorem witness_LdVxKWaitsForKey :
    (∀ k : Fin 16, State.reset.keyAt k = false) ∧ (withKey State.reset 15).keyAt 15 = true ∧
    (∀ j : Fin 16, j < 15 → (withKey State.reset 15).keyAt j = false) ∧ (withKey State.reset 0).keyAt 0 = true := by decide

theorem witness_WaitingCycleOnlyTicks :
    let s := placed 0xFFE 0xFF0A
    decodeWord (fetchOpcode s) = .ldVxK 0xF ∧ (∀ k : Fin 16, s.keyAt k = false) ∧ DefaultSwitches s ∧
    s.cfg.timerMode = .perCycle := by
  unfold DefaultSwitches; decide

/-- Default switches with VF as a coordinate; and every switch strict, with N at the bound of the address range. -/
theorem witness_DrwXorsSprite :
    (State.reset.setI 0xFFFF).cfg.drwVfCoord = .readFirst ∧ (State.reset.setI 0xFFFF).cfg.addrOverrun = .wrap ∧
    (State.reset.setI 0xFFFF).cfg.drwOffscreen = .clip ∧
    (1 : RegIdx) ≠ VF ∧ (2 : RegIdx) ≠ VF ∧ (State.reset.setI 0xFF1).i.toNat + (15 : Fin 16).val ≤ 0x1000 := by decide

/-- Under DRW_OFFSCREEN = fault, a sprite whose only set bit is the pixel (63, 31). -/
theorem witness_DrwXorsSprite_onScreen :
    let s := strictFaults (State.reset.setI 4)
    s.cfg.drwOffscreen = .fault ∧ s.i.toNat + (2 : Fin 16).val ≤ 0x1000 ∧
    ∀ i j, SpriteCovers (s.writeBytes 4 [0x80, 0x00]) 63 31 2 i j → i < 64 ∧ j < 32 := by
  refine ⟨rfl, by decide, fun i j h => ?_⟩
  obtain ⟨h1, h2, h3, h4, h5⟩ := h
  obtain ⟨c, rfl⟩ := Nat.exists_eq_add_of_le h1
  obtain ⟨r, rfl⟩ := Nat.exists_eq_add_of_le h3
  have hb : ∀ r < 2, ∀ c < 8,
      (((strictFaults (State.reset.setI 4)).writeBytes 4 [0x80, 0x00]).readByte (4 + r)).getLsbD (7 - c) = true →
        c = 0 ∧ r = 0 := by decide
  have hr : 31 + r - 31 = r := by omega
  have hc : 63 + c - 63 = c := by omega
  rw [hr, hc] at h5
  have := hb r (by omega) c (by omega) h5
  omega

/-- A lit pixel under a set bit of the sprite at the corner (collision), and a screen with none. -/
theorem witness_DrwXorsSprite_collision :
    let s := lit (State.reset.setI 4) 63 31
    (∃ i < 64, ∃ j < 32, s.pixel i j = true ∧ SpriteCovers s 63 31 1 i j) ∧
    ¬ ∃ i < 64, ∃ j < 32, State.reset.pixel i j = true ∧ SpriteCovers State.reset 63 31 1 i j := by
  refine ⟨⟨63, by decide, 31, by decide, by decide, by unfold SpriteCovers; decide⟩, ?_⟩
  rintro ⟨i, -, j, hj, h, -⟩
  simp [State.pixel, FrameBuf.pixel, State.reset, hj] at h

/-- The source's example S6: the same sprite twice at the same place. -/
theorem witness_DrwTwiceRestores :
    ∃ s t u : State, (1 : RegIdx) ≠ VF ∧ (2 : RegIdx) ≠ VF ∧ exec (.drwVxVyN 1 2 1) s = .next t ∧
      exec (.drwVxVyN 1 2 1) t = .next u :=
  ⟨(State.reset.setV 1 63).setV 2 31, drawn ((State.reset.setV 1 63).setV 2 31) 1 2 1,
    drawn (drawn ((State.reset.setV 1 63).setV 2 31) 1 2 1) 1 2 1, by decide, by decide, rfl, rfl⟩

/-- The lowest I or X at which each clause about addresses faults. -/
theorem witness_StrictMemoryAndScreenFault :
    let s := strictFaults State.reset
    let c := withCfg s fun c => { c with drwOffscreen := .clip }
    let d := withCfg s fun c => { c with addrOverrun := .wrap }
    s.cfg.addrOverrun = .fault ∧ 0xFFF < (s.setI 0xFFE).i.toNat + 2 ∧ 0xFFF < (s.setI 0xFFF).i.toNat + (1 : RegIdx).val ∧
    c.cfg.addrOverrun = .fault ∧ c.cfg.drwOffscreen = .clip ∧ c.cfg.drwVfCoord = .readFirst ∧ (1 : Fin 16) ≠ 0 ∧
    s.cfg.drwOffscreen = .fault ∧ s.cfg.drwVfCoord = .readFirst ∧ 0x1000 < (s.setI 0x1000).i.toNat + (1 : Fin 16).val ∧
    0x1000 < (c.setI 0x1000).i.toNat + (1 : Fin 16).val ∧ (s.setPC 0xFFF).pc = 0xFFF ∧
    d.cfg.drwOffscreen = .fault ∧ d.cfg.addrOverrun = .wrap ∧ d.cfg.drwVfCoord = .readFirst := by decide

/-- The font's first row (bits 7 to 4 set) with its origin at column 63: its second bit is at column 64. -/
theorem witness_StrictMemoryAndScreenFault_off :
    let d := (withCfg (strictFaults State.reset) fun c => { c with addrOverrun := .wrap }).setV 1 63
    ∃ i j, SpriteCovers d (d.getV 1).toNat (d.getV 2).toNat (1 : Fin 16).val i j ∧ ¬ (i < 64 ∧ j < 32) := by
  refine ⟨64, 0, ?_, by decide⟩
  unfold SpriteCovers; decide

theorem witness_StrictKeyAndPcFault :
    let s := strictFaults (State.reset.setV 1 16)
    let w := withCfg s fun c => { c with addrOverrun := .wrap }
    s.cfg.keyIndex = .fault ∧ 15 < (s.getV 1).toNat ∧ s.cfg.pcOverrun = .fault ∧ 0xFFF < (s.setPC 0xFFE).pc.toNat + 2 ∧
    (s.setPC 0xFFE).getV 2 = (s.setPC 0xFFE).getV 3 ∧ (s.setPC 0xFFE).getV 1 ≠ (s.setPC 0xFFE).getV 3 ∧
    (s.setPC 0xFFE).getV 1 = 16 ∧ (s.setPC 0xFFE).getV 1 ≠ 15 ∧ (0 : Fin 16).val = ((s.setPC 0xFFE).getV 2).toNat % 16 ∧
    ((s.setPC 0xFFE).getV 2).toNat ≤ 15 ∧ (s.setPC 0xFFE).keyAt 0 = false ∧ (withKey (s.setPC 0xFFE) 0).keyAt 0 = true ∧
    0xFFF < (0xFFF : Addr).toNat + ((s.setV 0 1).getV 0).toNat ∧
    w.cfg.pcOverrun = .fault ∧ w.cfg.addrOverrun = .wrap ∧ 0xFFF < (w.setPC 0xFFF).pc.toNat + 2 ∧
    s.cfg.addrOverrun = .fault ∧ (s.setPC 0xFFE).pc.toNat + 1 ≤ 0xFFF ∧
    faultIs (step (s.setPC 0xFFE)) (.pcOutOfRange 0xFFE 0x0000) = true := by decide

theorem witness_StrictAliasesRefused :
    let s := strictRefusals (placed 0x200 0x5AB1)
    s.cfg.vfAlias = .refuse ∧ (0xF : RegIdx) = VF ∧ s.cfg.drwVfCoord = .refuse ∧ s.cfg.nonCanonical = .refuse ∧
    s.cfg.addrOverrun = .wrap ∧ s.cfg.pcOverrun = .wrap ∧ canonical (fetchOpcode s) = false := by decide

/-- The clause on a cycle with the faulting switches set too, at the last PC they let through. -/
theorem witness_StrictAliasesRefused_strict :
    let s := strictFaults (strictRefusals (placed 0xFFD 0x0FEE))
    s.cfg.nonCanonical = .refuse ∧ s.cfg.addrOverrun = .fault ∧ s.pc.toNat + 1 ≤ 0xFFF ∧ s.cfg.pcOverrun = .fault ∧
    s.pc.toNat + 2 ≤ 0xFFF ∧ canonical (fetchOpcode s) = false := by decide

end Sys2Proof.Tests
end

section
/-! The fetched word as a number, and the bytes a load leaves from 0x200 on (20_memory.md R45;
70_reset_and_hazards.md R190). -/

namespace Sys2Proof.Machine

section
variable (s : State)

/-- The big-endian word of two bytes as a number. -/
theorem toNat_readWord (a : Nat) :
    (s.readWord a).toNat = 256 * (s.readByte a).toNat + (s.readByte (a + 1)).toNat := by
  have hlo : (s.readByte (a + 1)).toNat < 2 ^ 8 := (s.readByte (a + 1)).isLt
  rw [State.readWord, BitVec.toNat_append, ← Nat.shiftLeft_add_eq_or_of_lt hlo, Nat.shiftLeft_eq]
  omega

theorem loadError_eq_none_iff (bytes : List Byte) : loadError bytes = none ↔ bytes.length ≤ romMax := by
  simp [loadError]

/-- A load of a ROM that fits writes its bytes over a reset machine. -/
theorem hostLoad_of_length_le {bytes : List Byte} (h : bytes.length ≤ romMax) :
    hostLoad bytes s = (hostReset s).writeBytes progBase.toNat bytes := by
  rw [hostLoad, (loadError_eq_none_iff bytes).2 h]

/-- A load leaves PC at the first byte of the ROM, whether the ROM fits or not. -/
@[simp] theorem hostLoad_pc (bytes : List Byte) : (hostLoad bytes s).pc = progBase := by
  unfold hostLoad; split <;> rfl

theorem readByte_hostLoad_inside {bytes : List Byte} (h : bytes.length ≤ romMax) {k : Nat} (hk : k < bytes.length) :
    (hostLoad bytes s).readByte (progBase.toNat + k) = bytes[k] := by
  rw [hostLoad_of_length_le s h]
  exact readByte_writeBytes_inside _ (wf_resetMemory s.cfg.font) _ k bytes hk (h.trans (by decide))

end

/-- Settles O9: a fetch is a big-endian read at PC, and a load leaves PC at the ROM's first byte. -/
theorem fetchIsBigEndian : Obligations.FetchIsBigEndian := by
  refine ⟨fun s => toNat_readWord s s.pc.toNat, fun s hi lo rest hlen => ?_⟩
  have hfit : (hi :: lo :: rest).length ≤ romMax := Nat.add_le_add_right hlen 2
  have hhi : (hostLoad (hi :: lo :: rest) s).readByte progBase.toNat = hi :=
    readByte_hostLoad_inside s hfit (k := 0) (by simp)
  have hlo : (hostLoad (hi :: lo :: rest) s).readByte (progBase.toNat + 1) = lo :=
    readByte_hostLoad_inside s hfit (k := 1) (by simp)
  rw [fetchOpcode, toNat_readWord, hostLoad_pc, hhi, hlo]

end Sys2Proof.Machine
end

section
/-! From the dispatch key of a word to its instruction (30_encoding.md R64, R66), what a write of PC leaves, and the
jump JP addr (40_flow.md R81). -/

namespace Sys2Proof

/-- A word whose key is a key of the opcode map is decoded by that key's row. -/
theorem decodeWord_of_dispatchKey {op key : Word} {row : Word × (Word → Instr)} (hkey : dispatchKey op = key)
    (hrow : opMap.find? (fun r => r.1 == key) = some row) : decodeWord op = row.2 op := by
  rw [decodeWord, hkey, hrow]

@[simp] theorem opNNN_encA (c : BitVec 4) (nnn : Addr) : opNNN (encA c nnn) = nnn :=
  BitVec.extractLsb'_append_eq_right

theorem decodeWord_jpAddr (nnn : Addr) : decodeWord (encA 0x1 nnn) = .jpAddr nnn :=
  calc decodeWord (encA 0x1 nnn)
    _ = .jpAddr (opNNN (encA 0x1 nnn)) := decodeWord_of_dispatchKey (Laws.KeyOfEncode.jpAddr nnn) rfl
    _ = .jpAddr nnn := by rw [opNNN_encA]

end Sys2Proof

namespace Sys2Proof.Machine

section
variable (s : State) (a : Addr)

theorem onlyPC_setPC : OnlyPC s (s.setPC a) :=
  ⟨getV_setPC s a, readByte_setPC s a, rfl⟩

/-- After a write of PC the next fetch is at the address written, in the memory as it was. -/
theorem fetchOpcode_setPC : fetchOpcode (s.setPC a) = s.readWord a.toNat := by
  rw [fetchOpcode, setPC_pc, State.readWord, readByte_setPC, readByte_setPC, State.readWord]

/-- R81 names no fault: JP addr always answers a next state. -/
theorem exec_jpAddr : exec (.jpAddr a) s = .next (s.setPC a) := rfl

end

/-- Settles O44: 1NNN decodes to JP addr, and JP addr is a write of PC. -/
theorem jpAddrJumps : Obligations.JpAddrJumps := fun nnn s =>
  ⟨decodeWord_jpAddr nnn, s.setPC nnn, exec_jpAddr s nnn, setPC_pc s nnn, fetchOpcode_setPC s nnn,
    onlyPC_setPC s nnn⟩

end Sys2Proof.Machine
end

section
/-! The fields of words with register fields and their decoding by the row of the key (30_encoding.md R62, R66), what a
write of one V register leaves, and the instructions that only write one (41_alu.md R100, R101, R105 to R108). -/

namespace Sys2Proof

section
variable (c n : BitVec 4) (x y : RegIdx) (nn : Byte)

@[simp] theorem opNN_encXK : opNN (encXK c x nn) = nn :=
  BitVec.extractLsb'_append_eq_right

@[simp] theorem opX_encXK : opX (encXK c x nn) = x := by
  have hfield : (encXK c x nn).extractLsb' 8 4 = nibble x := by
    rw [encXK, BitVec.extractLsb'_append_eq_of_le (by omega)]
    exact BitVec.extractLsb'_append_eq_right
  rw [opX, hfield, nibble]

/-- A word of format XYF is the word of format XK whose low byte is Y and the last nibble. -/
theorem encXYN_eq_encXK : encXYN c x y n = encXK c x (nibble y ++ n) := by
  rw [encXYN, encXK, BitVec.append_assoc]
  rfl

@[simp] theorem opX_encXYN : opX (encXYN c x y n) = x := by
  rw [encXYN_eq_encXK, opX_encXK]

@[simp] theorem opY_encXYN : opY (encXYN c x y n) = y := by
  have hfield : (encXYN c x y n).extractLsb' 4 4 = nibble y := by
    rw [encXYN, BitVec.extractLsb'_append_eq_of_le (by omega)]
    exact BitVec.extractLsb'_append_eq_right
  rw [opY, hfield, nibble]

end

section
variable {c n : BitVec 4} {x y : RegIdx} {nn : Byte} {key : Word}

/-- A row of the map that reads X and NN gives back the operands of an XK word. -/
theorem decodeWord_encXK_of_row {mk : RegIdx → Byte → Instr} (hkey : dispatchKey (encXK c x nn) = key)
    (hrow : opMap.find? (fun r => r.1 == key) = some (key, fun op => mk (opX op) (opNN op))) :
    decodeWord (encXK c x nn) = mk x nn :=
  (decodeWord_of_dispatchKey hkey hrow).trans (congrArg₂ mk (opX_encXK c x nn) (opNN_encXK c x nn))

/-- A row of the map that reads X and Y gives back the operands of an XY or XYF word. -/
theorem decodeWord_encXYN_of_row {mk : RegIdx → RegIdx → Instr} (hkey : dispatchKey (encXYN c x y n) = key)
    (hrow : opMap.find? (fun r => r.1 == key) = some (key, fun op => mk (opX op) (opY op))) :
    decodeWord (encXYN c x y n) = mk x y :=
  (decodeWord_of_dispatchKey hkey hrow).trans (congrArg₂ mk (opX_encXYN c n x y) (opY_encXYN c n x y))

end

section
variable (x y : RegIdx) (nn : Byte)

theorem decodeWord_ldVxNN : decodeWord (encXK 0x6 x nn) = .ldVxNN x nn :=
  decodeWord_encXK_of_row (Laws.KeyOfEncode.ldVxNN x nn) rfl

theorem decodeWord_addVxNN : decodeWord (encXK 0x7 x nn) = .addVxNN x nn :=
  decodeWord_encXK_of_row (Laws.KeyOfEncode.addVxNN x nn) rfl

theorem decodeWord_ldVxVy : decodeWord (encXYN 0x8 x y 0x0) = .ldVxVy x y :=
  decodeWord_encXYN_of_row (Laws.KeyOfEncode.ldVxVy x y) rfl

theorem decodeWord_orVxVy : decodeWord (encXYN 0x8 x y 0x1) = .orVxVy x y :=
  decodeWord_encXYN_of_row (Laws.KeyOfEncode.orVxVy x y) rfl

theorem decodeWord_andVxVy : decodeWord (encXYN 0x8 x y 0x2) = .andVxVy x y :=
  decodeWord_encXYN_of_row (Laws.KeyOfEncode.andVxVy x y) rfl

theorem decodeWord_xorVxVy : decodeWord (encXYN 0x8 x y 0x3) = .xorVxVy x y :=
  decodeWord_encXYN_of_row (Laws.KeyOfEncode.xorVxVy x y) rfl

end

end Sys2Proof

namespace Sys2Proof.Machine

section
variable (s : State) (x y : RegIdx) (b nn : Byte)

/-- A write of one V register, VF included, changes that register only. -/
theorem onlyRegs_setV : OnlyRegs [x] s (s.setV x b) :=
  ⟨fun _ hr => getV_setV_ne s (List.ne_of_not_mem_cons hr) b, readByte_setV s x b, rfl⟩

/-! R100, R101 and R105 to R108 name no fault: each of the six always answers a next state. -/

theorem exec_ldVxNN : exec (.ldVxNN x nn) s = .next (s.setV x nn) := rfl

theorem exec_addVxNN : exec (.addVxNN x nn) s = .next (s.setV x (s.getV x + nn)) := rfl

theorem exec_ldVxVy : exec (.ldVxVy x y) s = .next (s.setV x (s.getV y)) := rfl

theorem exec_orVxVy : exec (.orVxVy x y) s = .next (s.setV x (s.getV x ||| s.getV y)) := rfl

theorem exec_andVxVy : exec (.andVxVy x y) s = .next (s.setV x (s.getV x &&& s.getV y)) := rfl

theorem exec_xorVxVy : exec (.xorVxVy x y) s = .next (s.setV x (s.getV x ^^^ s.getV y)) := rfl

end

/-- Settles O30: 6XNN decodes to LD Vx,NN, and LD Vx,NN is a write of V[X]. -/
theorem ldVxNNLoadsConstant : Obligations.LdVxNNLoadsConstant := fun x nn s =>
  ⟨decodeWord_ldVxNN x nn, s.setV x nn, exec_ldVxNN s x nn, getV_setV_self s x nn, onlyRegs_setV s x nn⟩

/-- Settles O31: 7XNN decodes to ADD Vx,NN, and ADD Vx,NN is a write of V[X], in which the 8-bit sum wraps. -/
theorem addVxNNWrapsWithoutFlag : Obligations.AddVxNNWrapsWithoutFlag := by
  refine fun x nn s => ⟨decodeWord_addVxNN x nn, _, exec_addVxNN s x nn, ?_, onlyRegs_setV s x _⟩
  rw [getV_setV_self, BitVec.toNat_add]

/-- Settles O32: 8XY0 to 8XY3 decode to the copy, OR, AND and XOR, and each is a write of V[X], in which the logic is
that of the single bits. -/
theorem copyAndLogic : Obligations.CopyAndLogic := by
  refine fun x y s =>
    ⟨⟨decodeWord_ldVxVy x y, decodeWord_orVxVy x y, decodeWord_andVxVy x y, decodeWord_xorVxVy x y⟩,
      ⟨_, exec_ldVxVy s x y, getV_setV_self s x _, onlyRegs_setV s x _⟩,
      ⟨_, exec_orVxVy s x y, onlyRegs_setV s x _, fun k _ => ?_⟩,
      ⟨_, exec_andVxVy s x y, onlyRegs_setV s x _, fun k _ => ?_⟩,
      ⟨_, exec_xorVxVy s x y, onlyRegs_setV s x _, fun k _ => ?_⟩⟩
  · rw [getV_setV_self, BitVec.getLsbD_or]
  · rw [getV_setV_self, BitVec.getLsbD_and]
  · rw [getV_setV_self, BitVec.getLsbD_xor]

end Sys2Proof.Machine
end

section
/-! The decoding of a word of format XF by the row of its key (30_encoding.md R65, R66), what a write of I leaves, and
the instructions that only write I (42_index_memory.md R120, R122). -/

namespace Sys2Proof

/-- A row of the map that reads X alone gives back the operand of an XF word. -/
theorem decodeWord_encXF_of_row {c : BitVec 4} {x : RegIdx} {ff : Byte} {key : Word} {mk : RegIdx → Instr}
    (hkey : dispatchKey (encXK c x ff) = key)
    (hrow : opMap.find? (fun r => r.1 == key) = some (key, fun op => mk (opX op))) :
    decodeWord (encXK c x ff) = mk x :=
  (decodeWord_of_dispatchKey hkey hrow).trans (congrArg mk (opX_encXK c x ff))

theorem decodeWord_ldIAddr (nnn : Addr) : decodeWord (encA 0xA nnn) = .ldIAddr nnn :=
  (decodeWord_of_dispatchKey (Laws.KeyOfEncode.ldIAddr nnn) rfl).trans (congrArg Instr.ldIAddr (opNNN_encA 0xA nnn))

theorem decodeWord_ldFVx (x : RegIdx) : decodeWord (encXK 0xF x 0x29) = .ldFVx x :=
  decodeWord_encXF_of_row (Laws.KeyOfEncode.ldFVx x) rfl

end Sys2Proof

namespace Sys2Proof.Machine

section
variable (s : State) (w : Word) (nnn : Addr) (x : RegIdx)

theorem onlyI_setI : OnlyI s (s.setI w) :=
  ⟨getV_setI s w, readByte_setI s w, rfl⟩

/-! R120 and R122 name no fault: both instructions always answer a next state. -/

theorem exec_ldIAddr : exec (.ldIAddr nnn) s = .next (s.setI (nnn.setWidth 16)) := rfl

theorem exec_ldFVx : exec (.ldFVx x) s = .next (s.setI ((s.getV x).setWidth 16 * 5)) := rfl

end

/-- Five times a byte is at most 1275, so the 16-bit product of R122 does not wrap. -/
theorem toNat_setWidth_mul_five (b : Byte) : (b.setWidth 16 * 5).toNat = b.toNat * 5 := by
  have hfit : b.toNat * 5 < 2 ^ 16 := by omega
  calc (b.setWidth 16 * 5).toNat
    _ = b.toNat * 5 % 2 ^ 16 := by rw [BitVec.toNat_mul, BitVec.toNat_setWidth_of_le (by decide)]; rfl
    _ = b.toNat * 5 := Nat.mod_eq_of_lt hfit

/-- Settles O37: ANNN decodes to LD I,addr, and LD I,addr is a write of I with the 12-bit address zero-extended. -/
theorem ldIAddrLoadsAddress : Obligations.LdIAddrLoadsAddress := by
  refine fun nnn s => ⟨decodeWord_ldIAddr nnn, _, exec_ldIAddr s nnn, ?_, onlyI_setI s _⟩
  rw [setI_i, BitVec.toNat_setWidth_of_le (by decide)]

/-- Settles O39: FX29 decodes to LD F,Vx, and LD F,Vx is a write of I, in which the product does not wrap. -/
theorem ldFVxPointsAtGlyph : Obligations.LdFVxPointsAtGlyph := by
  refine fun x s => ⟨decodeWord_ldFVx x, _, exec_ldFVx s x, ?_, onlyI_setI s _⟩
  rw [setI_i, toNat_setWidth_mul_five]

end Sys2Proof.Machine
end

section
/-! What one timer tick does to DT, ST and TONE as numbers, and what `n` ticks leave (60_exceptions.md R170). -/

namespace Sys2Proof.Machine

/-- One less, with zero left at zero: subtraction of natural numbers is what R170 does to each timer. -/
theorem toNat_countDown (b : Byte) : (if b = 0 then b else b - 1).toNat = b.toNat - 1 := by
  split
  next hzero => rw [hzero]; rfl
  next hne => exact BitVec.toNat_sub_of_le (by bv_omega)

section
variable (s : State)

theorem toNat_dt_timerTick : (timerTick s).dt.toNat = s.dt.toNat - 1 :=
  toNat_countDown s.dt

theorem toNat_st_timerTick : (timerTick s).st.toNat = s.st.toNat - 1 :=
  toNat_countDown s.st

theorem tone_timerTick_iff : (timerTick s).tone = true ↔ s.st = 1 := by
  rw [timerTick_tone, beq_iff_eq]

/-- A number that every tick takes down by one is down by `n` after `n` ticks. -/
theorem timerTick_iterate_eq_sub (f : State → Nat) (htick : ∀ t, f (timerTick t) = f t - 1) (n : Nat) :
    f (timerTick^[n] s) = f s - n := by
  have hsemi : Function.Semiconj f timerTick Nat.pred := htick
  rw [(hsemi.iterate_right n).eq, Nat.pred_iterate]

theorem toNat_dt_timerTick_iterate (n : Nat) : (timerTick^[n] s).dt.toNat = s.dt.toNat - n :=
  timerTick_iterate_eq_sub s (fun t => t.dt.toNat) toNat_dt_timerTick n

theorem toNat_st_timerTick_iterate (n : Nat) : (timerTick^[n] s).st.toNat = s.st.toNat - n :=
  timerTick_iterate_eq_sub s (fun t => t.st.toNat) toNat_st_timerTick n

/-- The tick number `n + 1` is the one that finds ST at 1, so TONE is raised there alone. -/
theorem tone_timerTick_iterate_iff (n : Nat) :
    (timerTick^[n + 1] s).tone = true ↔ s.st.toNat = n + 1 := by
  calc (timerTick^[n + 1] s).tone = true
    _ ↔ (timerTick^[n] s).st = 1 := by rw [Function.iterate_succ_apply', tone_timerTick_iff]
    _ ↔ (timerTick^[n] s).st.toNat = 1 := BitVec.toNat_inj.symm
    _ ↔ s.st.toNat - n = 1 := by rw [toNat_st_timerTick_iterate]
    _ ↔ s.st.toNat = n + 1 := by omega

end

/-- Settles O12: a tick is subtraction of one on DT and ST, which `n` ticks repeat, and the tick after those raises TONE
when they have brought ST to 1. -/
theorem timerTickCountsDown : Obligations.TimerTickCountsDown :=
  fun s =>
    ⟨toNat_dt_timerTick s, toNat_st_timerTick s, tone_timerTick_iff s, rfl, fun n =>
      ⟨toNat_dt_timerTick_iterate s n, toNat_st_timerTick_iterate s n, tone_timerTick_iterate_iff s n⟩⟩

end Sys2Proof.Machine
end

section
/-! What a reset machine reads above its font, and what a load changes of a reset machine (70_reset_and_hazards.md R185,
R190). -/

namespace Sys2Proof.Machine

/-- The default font ends below 0x050. -/
theorem memoryInitial_eq_zero {a : Nat} (h : 80 ≤ a) : Memory.initial a = 0 :=
  List.getD_eq_default _ _ h

section
variable (s : State) {bytes : List Byte} {a : Nat}

/-- A run of bytes that ends within memory does not wrap, so it touches no address below or above it. -/
theorem not_touches_of_outside {n b : Nat} (hn : a + n ≤ memSize) (hb : b < memSize) (hout : b < a ∨ a + n ≤ b) :
    ¬ Touches a n (memAddr b) := by
  rintro ⟨k, hk, heq⟩
  have hreduced : b = a + k := by
    rwa [memAddr, memAddr, Nat.mod_eq_of_lt hb, Nat.mod_eq_of_lt (by omega)] at heq
  omega

/-- Reset leaves memory zero from 0x050 on, whatever the machine's font. -/
theorem readByte_hostReset_above (hlo : 80 ≤ a) (hhi : a < memSize) : (hostReset s).readByte a = 0 := by
  have hreset : hostReset s = ({ hostReset s with mem := [] } : State).writeBytes 0 s.cfg.font.toList := rfl
  rw [hreset, readByte_writeBytes_outside]
  · rw [State.readByte, memAddr, Nat.mod_eq_of_lt hhi]
    exact memoryInitial_eq_zero hlo
  · rw [Vector.length_toList]
    exact not_touches_of_outside (by decide) hhi (.inr (by omega))

theorem loadError_of_lt_length (h : romMax < bytes.length) : loadError bytes = some .romTooLarge :=
  if_pos h

/-- A load of a ROM that is too large is a reset. -/
theorem hostLoad_of_lt_length (h : romMax < bytes.length) : hostLoad bytes s = hostReset s := by
  rw [hostLoad, loadError_of_lt_length h]

/-- A load of no bytes is a reset. -/
theorem hostLoad_nil : hostLoad [] s = hostReset s := rfl

/-- A load, of a ROM that fits or of one that does not, differs from a reset in memory only. -/
theorem hostLoad_eq_hostReset_with_mem (bytes : List Byte) :
    hostLoad bytes s = { hostReset s with mem := (hostLoad bytes s).mem } := by
  unfold hostLoad
  cases loadError bytes <;> rfl

theorem readByte_hostLoad_outside (h : bytes.length ≤ romMax) (ha : a < memSize)
    (hout : a < progBase.toNat ∨ progBase.toNat + bytes.length ≤ a) :
    (hostLoad bytes s).readByte a = (hostReset s).readByte a := by
  rw [hostLoad_of_length_le s h]
  exact readByte_writeBytes_outside _ _ _ _ (not_touches_of_outside (Nat.add_le_add_left h _) ha hout)

end

/-- Settles O26: a ROM that fits is one write over the reset memory, which is zero from the end of the font on; any other
load is a reset. -/
theorem loadCopiesRom : Obligations.LoadCopiesRom := by
  refine fun bytes s =>
    ⟨rfl, fun hlarge => ⟨loadError_of_lt_length hlarge, hostLoad_of_lt_length s hlarge⟩, fun hfit =>
      ⟨(loadError_eq_none_iff bytes).2 hfit, fun _ hk => readByte_hostLoad_inside s hfit hk,
        fun a hlo hhi => ?above, fun a hlt => ?below, hostLoad_eq_hostReset_with_mem s bytes⟩,
      hostLoad_nil s⟩
  case above =>
    calc (hostLoad bytes s).readByte a
      _ = (hostReset s).readByte a := readByte_hostLoad_outside s hfit hhi (.inr hlo)
      _ = 0 := readByte_hostReset_above s (by omega) hhi
  case below =>
    exact readByte_hostLoad_outside s hfit (hlt.trans (by decide)) (.inl hlt)

end Sys2Proof.Machine
end

section
/-! What each instruction, cycle and host operation does to the key latches (10_state.md R19; 70_reset_and_hazards.md
R193). -/

namespace Sys2Proof.Machine

section
variable (s : State)

theorem ite_skip_key (c : Bool) : (if c then s.skip else s).key = s.key := by
  cases c <;> rfl

/-- No instruction writes a key latch, LD Vx,K included. -/
theorem effect_key (i : Instr) : (effect i s).key = s.key := by
  cases i with
  | seVxNN | sneVxNN | seVxVy | sneVxVy | skpVx | sknpVx => exact ite_skip_key s _
  | ldVxK x =>
    unfold effect
    cases leastKey s <;> rfl
  | _ => rfl

/-- set_key of an index in range always answers a next state. -/
theorem hostApply_setKey (k : Fin 16) (p : Bool) :
    hostApply (.setKey k.val p) s = .next (hostSetKey k p s) :=
  dif_pos k.isLt

/-- Reset releases every key. -/
theorem keyAt_hostReset (k : Fin 16) : (hostReset s).keyAt k = false :=
  Vector.getElem_replicate k.isLt

/-- A load begins with a reset and writes no latch after it. -/
theorem keyAt_hostLoad (bytes : List Byte) (k : Fin 16) : (hostLoad bytes s).keyAt k = false := by
  rw [hostLoad_eq_hostReset_with_mem]
  exact keyAt_hostReset s k

end

section
variable {s u : State}

theorem step_key (h : step s = .next u) : u.key = s.key := by
  obtain ⟨-, -, t, hexec, rfl⟩ := (step_eq_next_iff s).1 h
  calc (endCycle t).key
    _ = t.key := endCycle_key t
    _ = (advance s).key := by rw [exec_eq_next hexec, effect_key]
    _ = s.key := advance_key s

/-- All set_key can do when it answers a next state. -/
theorem hostApply_setKey_eq_next {n : Nat} {q : Bool} (h : hostApply (.setKey n q) s = .next u) :
    ∃ j : Fin 16, j.val = n ∧ u = hostSetKey j q s := by
  simp only [hostApply] at h
  split at h
  next hn => exact ⟨⟨n, hn⟩, rfl, by simpa [eq_comm] using h⟩
  next => simp at h

/-- All a tick of the host can do when it answers a next state. -/
theorem hostApply_tick_eq_next (h : hostApply .tick s = .next u) : u = timerTick s := by
  simp only [hostApply] at h
  split at h
  next => simpa [eq_comm] using h
  next => simp at h

/-- Only a reset, a load and set_key of its index write a key latch. -/
theorem keyAt_of_hostApply {o : HostOp} {k : Fin 16} (hreset : o ≠ .reset) (hload : ∀ bytes, o ≠ .load bytes)
    (hset : ∀ q, o ≠ .setKey k.val q) (h : hostApply o s = .next u) : u.keyAt k = s.keyAt k := by
  cases o with
  | reset => exact absurd rfl hreset
  | load bytes => exact absurd rfl (hload bytes)
  | step => rw [State.keyAt, step_key h, State.keyAt]
  | tick => rw [hostApply_tick_eq_next h, keyAt_timerTick]
  | setKey n q =>
    obtain ⟨j, rfl, rfl⟩ := hostApply_setKey_eq_next h
    have hne : k ≠ j := fun e => hset q (by rw [e])
    rw [keyAt_hostSetKey, if_neg hne]
  | clearDF => cases h; rw [keyAt_hostClearDF]

end

/-- Settles O27: set_key is a write of one latch; by cases on the host operations, only another set_key of that index, a
reset or a load writes the latch again, and the last two release it. -/
theorem setKeyWritesOneLatch : Obligations.SetKeyWritesOneLatch := by
  intro s k p
  have hlatch : (hostSetKey k p s).keyAt k = p := by rw [keyAt_hostSetKey, if_pos rfl]
  refine ⟨hostSetKey k p s, hostApply_setKey s k p, hlatch, fun j hj => ?others, rfl,
    fun o u hreset hload hset h => ?kept, keyAt_hostReset _ k, fun bytes => keyAt_hostLoad _ bytes k⟩
  case others => rw [keyAt_hostSetKey, if_neg hj]
  case kept => exact (keyAt_of_hostApply hreset hload hset h).trans hlatch

end Sys2Proof.Machine
end

section
/-! The opcode map by its rows, the fields a word is made of, and decoding against encoding (30_encoding.md R61 to
R69). -/

namespace Sys2Proof

/-! ## Rows of the opcode map -/

theorem opKeys_nodup : opKeys.Nodup := by decide

/-- The search of the map by a row's key finds that row. -/
theorem find?_opMap_of_mem {row : Word × (Word → Instr)} (hrow : row ∈ opMap) :
    opMap.find? (fun r => r.1 == row.1) = some row := by
  cases hfind : opMap.find? (fun r => r.1 == row.1) with
  | none => exact absurd (beq_self_eq_true row.1) (List.find?_eq_none.1 hfind row hrow)
  | some found =>
    have hkey : found.1 = row.1 := beq_iff_eq.1 (List.find?_some (p := fun r => Prod.fst r == row.1) hfind)
    have hmem : found ∈ opMap := List.mem_of_find?_eq_some hfind
    rw [List.inj_on_of_nodup_map opKeys_nodup hmem hrow hkey]

/-- A word whose key is a row's is decoded by that row. -/
theorem decodeWord_of_mem {row : Word × (Word → Instr)} (hrow : row ∈ opMap) {op : Word}
    (hkey : dispatchKey op = row.1) : decodeWord op = row.2 op :=
  decodeWord_of_dispatchKey hkey (find?_opMap_of_mem hrow)

theorem decodeWord_of_not_mem {op : Word} (h : dispatchKey op ∉ opKeys) : decodeWord op = .unknown op := by
  have hfind : opMap.find? (fun row => row.1 == dispatchKey op) = none :=
    List.find?_eq_none.2 fun row hrow heq => h (beq_iff_eq.1 heq ▸ List.mem_map_of_mem hrow)
  rw [decodeWord, hfind]

/-- All a word can decode to: what its row answers, or an unknown opcode. -/
theorem decodeWord_cases (op : Word) :
    (∃ row ∈ opMap, dispatchKey op = row.1 ∧ decodeWord op = row.2 op) ∨
    (dispatchKey op ∉ opKeys ∧ decodeWord op = .unknown op) := by
  by_cases h : dispatchKey op ∈ opKeys
  · obtain ⟨row, hrow, hkey⟩ := List.mem_map.1 h
    exact .inl ⟨row, hrow, hkey.symm, decodeWord_of_mem hrow hkey.symm⟩
  · exact .inr ⟨h, decodeWord_of_not_mem h⟩

theorem row_ne_unknown : ∀ row ∈ opMap, ∀ op op' : Word, row.2 op ≠ .unknown op' := by
  simp [opMap]

/-- A word decodes to an unknown opcode exactly when its key is no row's. -/
theorem decodeWord_eq_unknown_iff (op : Word) : decodeWord op = .unknown op ↔ dispatchKey op ∉ opKeys := by
  refine ⟨fun h hmem => ?_, decodeWord_of_not_mem⟩
  obtain ⟨row, hrow, hkey⟩ := List.mem_map.1 hmem
  exact row_ne_unknown row hrow op op ((decodeWord_of_mem hrow hkey.symm).symm.trans h)

theorem wellFormed_unknown_iff (op : Word) : (Instr.unknown op).wellFormed = true ↔ dispatchKey op ∉ opKeys := by
  simp [Instr.wellFormed]

theorem row_wellFormed : ∀ row ∈ opMap, ∀ op : Word, (row.2 op).wellFormed = true := by
  simp [opMap, Instr.wellFormed]

theorem wellFormed_decodeWord (op : Word) : (decodeWord op).wellFormed = true := by
  rcases decodeWord_cases op with ⟨row, hrow, -, heq⟩ | ⟨hkey, heq⟩ <;> rw [heq]
  · exact row_wellFormed row hrow op
  · exact (wellFormed_unknown_iff op).2 hkey

/-! ## A word from its fields -/

section
variable (op : Word)

theorem encA_fields : encA (opClass op) (opNNN op) = op := BitVec.extractLsb'_append_extractLsb'

theorem encXK_fields : encXK (opClass op) (opX op) (opNN op) = op := by
  have hX : opClass op ++ nibble (opX op) = op.extractLsb' 8 8 :=
    BitVec.extractLsb'_append_extractLsb'_eq_extractLsb' rfl
  rw [encXK, hX]
  exact BitVec.extractLsb'_append_extractLsb'

theorem encXYN_fields : encXYN (opClass op) (opX op) (opY op) (nibble (opN op)) = op := by
  have hNN : nibble (opY op) ++ nibble (opN op) = opNN op :=
    BitVec.extractLsb'_append_extractLsb'_eq_extractLsb' rfl
  rw [encXYN_eq_encXK, hNN, encXK_fields]

theorem wordBytes_append : (op.extractLsb' 8 8 ++ op.extractLsb' 0 8 : Word) = op :=
  BitVec.extractLsb'_append_extractLsb'

theorem decode_wordBytes (rest : List Byte) : decode (wordBytes op ++ rest) = .ok (decodeWord op, rest) := by
  rw [wordBytes, List.cons_append, List.singleton_append, decode, wordBytes_append]

/-- The key of a word of classes 0, E and F: the class and the low byte. -/
theorem dispatchKey_of_mask_F0FF (h : classMask (opClass op) = 0xF0FF) :
    dispatchKey op = opClass op ++ 0#4 ++ opNN op := by
  conv_lhs => rw [← encXK_fields op]
  exact Laws.key_encXF _ _ _ h

/-- The key of a word of class 8: the class and the last nibble. -/
theorem dispatchKey_of_mask_F00F (h : classMask (opClass op) = 0xF00F) :
    dispatchKey op = opClass op ++ 0#4 ++ 0#4 ++ nibble (opN op) := by
  conv_lhs => rw [← encXYN_fields op]
  exact Laws.key_encXYF _ _ _ _ h

/-- The key of a word of the other classes: the class. -/
theorem dispatchKey_of_mask_F000 (h : classMask (opClass op) = 0xF000) :
    dispatchKey op = opClass op ++ (0#12) := by
  conv_lhs => rw [← encA_fields op]
  exact Laws.key_encA _ _ h

/-- The key of a word keeps its class. -/
theorem opClass_dispatchKey : opClass (dispatchKey op) = opClass op := by
  have hmask : opClass (classMask (opClass op)) = BitVec.allOnes 4 := by
    unfold classMask; split
    · rfl
    · split <;> rfl
  rw [dispatchKey, opClass, BitVec.extractLsb'_and, ← opClass, ← opClass, hmask, BitVec.and_allOnes]

end

/-! ## Encoding what a row decodes -/

section
variable {op key : Word} {c : BitVec 4}

theorem opClass_of_dispatchKey (h : dispatchKey op = key) (hc : opClass key = c) : opClass op = c := by
  rw [← hc, ← h, opClass_dispatchKey]

theorem encA_of_dispatchKey (h : dispatchKey op = key) (hc : opClass key = c) : encA c (opNNN op) = op := by
  rw [← opClass_of_dispatchKey h hc, encA_fields]

theorem encXK_of_dispatchKey (h : dispatchKey op = key) (hc : opClass key = c) :
    encXK c (opX op) (opNN op) = op := by
  rw [← opClass_of_dispatchKey h hc, encXK_fields]

theorem encXYN_of_dispatchKey (h : dispatchKey op = key) (hc : opClass key = c) :
    encXYN c (opX op) (opY op) (nibble (opN op)) = op := by
  rw [← opClass_of_dispatchKey h hc, encXYN_fields]

/-- In classes 0, E and F the key holds the low byte too. -/
theorem encXF_of_dispatchKey {ff : Byte} (h : dispatchKey op = key) (hc : opClass key = c)
    (hmask : classMask c = 0xF0FF) (hff : opNN key = ff) : encXK c (opX op) ff = op := by
  have hNN : opNN op = ff := by
    rw [← hff, ← h, dispatchKey_of_mask_F0FF op (by rwa [opClass_of_dispatchKey h hc])]
    exact BitVec.extractLsb'_append_eq_right.symm
  rw [← hNN, encXK_of_dispatchKey h hc]

/-- In class 8 the key holds the last nibble too. -/
theorem encXYF_of_dispatchKey {f : BitVec 4} (h : dispatchKey op = key) (hc : opClass key = c)
    (hmask : classMask c = 0xF00F) (hf : nibble (opN key) = f) : encXYN c (opX op) (opY op) f = op := by
  have hN : nibble (opN op) = f := by
    rw [← hf, ← h, dispatchKey_of_mask_F00F op (by rwa [opClass_of_dispatchKey h hc])]
    exact BitVec.extractLsb'_append_eq_right.symm
  rw [← hN, encXYN_of_dispatchKey h hc]

/-- The rows of CLS and RET ignore X, which is 0 in a canonical word. -/
theorem opX_eq_zero_of_canonical (hcan : canonical op = true) (h : decodeWord op = .cls ∨ decodeWord op = .ret) :
    opX op = 0 := by
  rcases h with h | h <;> simpa [canonical, h] using hcan

/-- The rows of SE Vx,Vy and SNE Vx,Vy ignore the last nibble, which is 0 in a canonical word. -/
theorem opN_eq_zero_of_canonical {x y : RegIdx} (hcan : canonical op = true)
    (h : decodeWord op = .seVxVy x y ∨ decodeWord op = .sneVxVy x y) : opN op = 0 := by
  rcases h with h | h <;> simpa [canonical, h] using hcan

end

theorem encode_cls_row {op : Word} (h : dispatchKey op = 0x00E0) (hcan : canonical op = true) :
    encode .cls = op := by
  have hX := opX_eq_zero_of_canonical hcan (.inl (decodeWord_of_dispatchKey h rfl))
  exact (congrArg (encXK 0x0 · 0xE0) hX.symm).trans (encXF_of_dispatchKey h rfl rfl rfl)

theorem encode_ret_row {op : Word} (h : dispatchKey op = 0x00EE) (hcan : canonical op = true) :
    encode .ret = op := by
  have hX := opX_eq_zero_of_canonical hcan (.inr (decodeWord_of_dispatchKey h rfl))
  exact (congrArg (encXK 0x0 · 0xEE) hX.symm).trans (encXF_of_dispatchKey h rfl rfl rfl)

theorem encode_seVxVy_row {op : Word} (h : dispatchKey op = 0x5000) (hcan : canonical op = true) :
    encode (.seVxVy (opX op) (opY op)) = op := by
  have hN := opN_eq_zero_of_canonical hcan (.inl (decodeWord_of_dispatchKey h rfl))
  exact (congrArg (encXYN 0x5 _ _ <| nibble ·) hN.symm).trans (encXYN_of_dispatchKey h rfl)

theorem encode_sneVxVy_row {op : Word} (h : dispatchKey op = 0x9000) (hcan : canonical op = true) :
    encode (.sneVxVy (opX op) (opY op)) = op := by
  have hN := opN_eq_zero_of_canonical hcan (.inr (decodeWord_of_dispatchKey h rfl))
  exact (congrArg (encXYN 0x9 _ _ <| nibble ·) hN.symm).trans (encXYN_of_dispatchKey h rfl)

/-- Every row's instruction encodes to the word it was read from, if the bits the row ignores are zero: one line per row,
by the format of the row. -/
theorem encode_row : ∀ row ∈ opMap, ∀ op : Word, dispatchKey op = row.1 → canonical op = true →
    encode (row.2 op) = op := by
  simp only [opMap, List.forall_mem_cons, List.not_mem_nil, false_imp_iff, implies_true, and_true]
  exact
    ⟨fun _ => encode_cls_row,
     fun _ => encode_ret_row,
     fun _ h _ => encA_of_dispatchKey h rfl,
     fun _ h _ => encA_of_dispatchKey h rfl,
     fun _ h _ => encXK_of_dispatchKey h rfl,
     fun _ h _ => encXK_of_dispatchKey h rfl,
     fun _ => encode_seVxVy_row,
     fun _ h _ => encXK_of_dispatchKey h rfl,
     fun _ h _ => encXK_of_dispatchKey h rfl,
     fun _ h _ => encXYF_of_dispatchKey h rfl rfl rfl,
     fun _ h _ => encXYF_of_dispatchKey h rfl rfl rfl,
     fun _ h _ => encXYF_of_dispatchKey h rfl rfl rfl,
     fun _ h _ => encXYF_of_dispatchKey h rfl rfl rfl,
     fun _ h _ => encXYF_of_dispatchKey h rfl rfl rfl,
     fun _ h _ => encXYF_of_dispatchKey h rfl rfl rfl,
     fun _ h _ => encXYF_of_dispatchKey h rfl rfl rfl,
     fun _ h _ => encXYF_of_dispatchKey h rfl rfl rfl,
     fun _ h _ => encXYF_of_dispatchKey h rfl rfl rfl,
     fun _ => encode_sneVxVy_row,
     fun _ h _ => encA_of_dispatchKey h rfl,
     fun _ h _ => encA_of_dispatchKey h rfl,
     fun _ h _ => encXK_of_dispatchKey h rfl,
     fun _ h _ => encXYN_of_dispatchKey h rfl,
     fun _ h _ => encXF_of_dispatchKey h rfl rfl rfl,
     fun _ h _ => encXF_of_dispatchKey h rfl rfl rfl,
     fun _ h _ => encXF_of_dispatchKey h rfl rfl rfl,
     fun _ h _ => encXF_of_dispatchKey h rfl rfl rfl,
     fun _ h _ => encXF_of_dispatchKey h rfl rfl rfl,
     fun _ h _ => encXF_of_dispatchKey h rfl rfl rfl,
     fun _ h _ => encXF_of_dispatchKey h rfl rfl rfl,
     fun _ h _ => encXF_of_dispatchKey h rfl rfl rfl,
     fun _ h _ => encXF_of_dispatchKey h rfl rfl rfl,
     fun _ h _ => encXF_of_dispatchKey h rfl rfl rfl,
     fun _ h _ => encXF_of_dispatchKey h rfl rfl rfl⟩

/-! ## Decoding what an instruction encodes -/

/-- The key of an instruction's word is the one R66 gives it, by the formats of R65. -/
theorem dispatchKey_encode (i : Instr) : dispatchKey (encode i) = Laws.keyOf i := by
  cases i with
  | cls | ret | unknown => rfl
  | jpAddr nnn | callAddr nnn | ldIAddr nnn | jpV0Addr nnn => exact Laws.key_encA _ nnn rfl
  | seVxNN x nn | sneVxNN x nn | ldVxNN x nn | addVxNN x nn | rndVxNN x nn => exact Laws.key_encXK _ x nn rfl
  | seVxVy x y | sneVxVy x y | drwVxVyN x y => exact Laws.key_encXYN _ x y _ rfl
  | ldVxVy x y | orVxVy x y | andVxVy x y | xorVxVy x y | addVxVy x y | subVxVy x y | shrVx x y | subnVxVy x y
  | shlVx x y => exact Laws.key_encXYF _ x y _ rfl
  | skpVx x | sknpVx x | ldVxDT x | ldVxK x | ldDTVx x | ldSTVx x | addIVx x | ldFVx x | ldBVx x | ldMemVx x
  | ldVxMem x => exact Laws.key_encXF _ x _ rfl

@[simp] theorem opN_encXYN (c : BitVec 4) (x y n : Fin 16) : opN (encXYN c x y (nibble n)) = n :=
  congrArg BitVec.toFin BitVec.extractLsb'_append_eq_right

/-- A row of the map that reads NNN gives back the operand of a format A word. -/
theorem decodeWord_encA_of_row {c : BitVec 4} {nnn : Addr} {key : Word} {mk : Addr → Instr}
    (hkey : dispatchKey (encA c nnn) = key)
    (hrow : opMap.find? (fun r => r.1 == key) = some (key, fun op => mk (opNNN op))) :
    decodeWord (encA c nnn) = mk nnn :=
  (decodeWord_of_dispatchKey hkey hrow).trans (congrArg mk (opNNN_encA c nnn))

theorem decodeWord_drwVxVyN (x y n : Fin 16) : decodeWord (encXYN 0xD x y (nibble n)) = .drwVxVyN x y n := by
  have hrow : decodeWord (encXYN 0xD x y (nibble n)) = _ :=
    decodeWord_of_dispatchKey (dispatchKey_encode (.drwVxVyN x y n)) rfl
  simpa using hrow

/-- Decoding inverts encoding: the row of an instruction's key reads the operands back. -/
theorem decodeWord_encode {i : Instr} (h : i.wellFormed = true) : decodeWord (encode i) = i := by
  have hkey := dispatchKey_encode i
  cases i with
  | cls | ret => rfl
  | unknown op => exact decodeWord_of_not_mem ((wellFormed_unknown_iff op).1 h)
  | jpAddr | callAddr | ldIAddr | jpV0Addr => exact decodeWord_encA_of_row hkey rfl
  | seVxNN | sneVxNN | ldVxNN | addVxNN | rndVxNN => exact decodeWord_encXK_of_row hkey rfl
  | drwVxVyN x y n => exact decodeWord_drwVxVyN x y n
  | seVxVy | sneVxVy | ldVxVy | orVxVy | andVxVy | xorVxVy | addVxVy | subVxVy | shrVx | subnVxVy | shlVx =>
    exact decodeWord_encXYN_of_row hkey rfl
  | skpVx | sknpVx | ldVxDT | ldVxK | ldDTVx | ldSTVx | addIVx | ldFVx | ldBVx | ldMemVx | ldVxMem =>
    exact decodeWord_encXF_of_row hkey rfl

/-! ## The unknown opcodes -/

theorem lowByteKey_injective (c : BitVec 4) : Function.Injective fun nn : Byte => c ++ 0#4 ++ nn :=
  Function.LeftInverse.injective (g := opNN) fun _ => BitVec.extractLsb'_append_eq_right

/-- In a class whose keys of the map are made of the low bytes `l`, a key is in the map if its low byte is in `l`. -/
theorem lowByteKey_mem_opKeys_iff {c : BitVec 4} {l : List Byte}
    (hl : opKeys.filter (fun key => opClass key == c) = l.map fun nn => c ++ 0#4 ++ nn) (nn : Byte) :
    c ++ 0#4 ++ nn ∈ opKeys ↔ nn ∈ l := by
  have hclass : opClass (c ++ 0#4 ++ nn) = c := Laws.opClass_encXK c 0 nn
  rw [← List.mem_map_of_injective (lowByteKey_injective c), ← hl, List.mem_filter]
  simp [hclass]

theorem class0Key_mem_opKeys_iff (nn : Byte) : (0x0 : BitVec 4) ++ 0#4 ++ nn ∈ opKeys ↔ nn ∈ [0xE0, 0xEE] :=
  lowByteKey_mem_opKeys_iff (by decide) nn

theorem classEKey_mem_opKeys_iff (nn : Byte) : (0xE : BitVec 4) ++ 0#4 ++ nn ∈ opKeys ↔ nn ∈ [0x9E, 0xA1] :=
  lowByteKey_mem_opKeys_iff (by decide) nn

theorem classFKey_mem_opKeys_iff (nn : Byte) : (0xF : BitVec 4) ++ 0#4 ++ nn ∈ opKeys ↔
    nn ∈ [0x07, 0x0A, 0x15, 0x18, 0x1E, 0x29, 0x33, 0x55, 0x65] :=
  lowByteKey_mem_opKeys_iff (by decide) nn

theorem class8Key_mem_opKeys_iff (n : Fin 16) :
    (0x8 : BitVec 4) ++ 0#4 ++ 0#4 ++ nibble n ∈ opKeys ↔ n ∉ [0x8, 0x9, 0xA, 0xB, 0xC, 0xD, 0xF] := by
  revert n; decide

/-- In a class whose words all have one key, that key is in the map. -/
theorem classKey_mem_opKeys (c : BitVec 4) (h : classMask c = 0xF000) : c ++ 0#12 ∈ opKeys := by
  revert c; decide

/-- The classes by their masks (R64). -/
theorem classMask_cases (c : BitVec 4) :
    c = 0x0 ∨ c = 0x8 ∨ c = 0xE ∨ c = 0xF ∨ (classMask c = 0xF000 ∧ c ≠ 0x0 ∧ c ≠ 0x8 ∧ c ≠ 0xE ∧ c ≠ 0xF) := by
  revert c; decide

/-- Settles O2: the key of the encoded word selects the row of the instruction, which reads back its operands. -/
theorem decodeEncodeAgree : Obligations.DecodeEncodeAgree := by
  intro i rest hwf
  refine ⟨decodeWord_encode hwf, ?_⟩
  rw [encodeBytes, decode_wordBytes, decodeWord_encode hwf]

/-- Settles O3: a word is that of a row, which encodes back to it, or it is unknown and its own encoding. -/
theorem encodeDecodeAgree : Obligations.EncodeDecodeAgree := by
  refine fun op => ⟨wellFormed_decodeWord op, fun hcan => ?_⟩
  rcases decodeWord_cases op with ⟨row, hrow, hkey, heq⟩ | ⟨-, heq⟩ <;> rw [heq]
  · exact encode_row row hrow op hkey hcan
  · rfl

/-- Settles O4: the keys have no repeats, so a key selects its own row. -/
theorem opcodeMapIsClosed : Obligations.OpcodeMapIsClosed :=
  ⟨rfl, opKeys_nodup, fun _ hrow _ hkey => decodeWord_of_mem hrow hkey,
    fun op => (decodeWord_eq_unknown_iff op).symm⟩

/-- Settles O5: the key of a word is its class with the low byte in classes 0, E and F, with the last nibble in class 8,
and the class alone in the others, where it is always in the map. -/
theorem unknownOpcodesExactly : Obligations.UnknownOpcodesExactly := by
  intro op
  rw [decodeWord_eq_unknown_iff]
  rcases classMask_cases (opClass op) with hc | hc | hc | hc | ⟨hmask, h0, h8, hE, hF⟩
  · rw [dispatchKey_of_mask_F0FF op (by rw [hc]; rfl), hc, class0Key_mem_opKeys_iff]
    simp
  · rw [dispatchKey_of_mask_F00F op (by rw [hc]; rfl), hc, class8Key_mem_opKeys_iff, not_not]
    simp
  · rw [dispatchKey_of_mask_F0FF op (by rw [hc]; rfl), hc, classEKey_mem_opKeys_iff]
    simp
  · rw [dispatchKey_of_mask_F0FF op (by rw [hc]; rfl), hc, classFKey_mem_opKeys_iff]
    simp
  · rw [dispatchKey_of_mask_F000 op hmask]
    simp only [classKey_mem_opKeys _ hmask, h0, h8, hE, hF, not_true, false_and, or_self]

/-- The word 0x0uE0 is CLS for every u (decision D12). -/
theorem decodeWord_cls (u : RegIdx) : decodeWord (encXK 0x0 u 0xE0) = .cls :=
  decodeWord_of_dispatchKey (Laws.key_encXF 0x0 u 0xE0 rfl) rfl

/-- The word 0x0uEE is RET for every u (decision D12). -/
theorem decodeWord_ret (u : RegIdx) : decodeWord (encXK 0x0 u 0xEE) = .ret :=
  decodeWord_of_dispatchKey (Laws.key_encXF 0x0 u 0xEE rfl) rfl

/-- Settles O6: the bits u are not in the key, and SHR and SHL read no Y. -/
theorem ignoredBitsDecodeAlike : Obligations.IgnoredBitsDecodeAlike := fun x y _ u _ =>
  ⟨decodeWord_cls x, decodeWord_ret x,
    decodeWord_encXYN_of_row (Laws.key_encXYN 0x5 x y u rfl) rfl,
    decodeWord_encXYN_of_row (Laws.key_encXYN 0x9 x y u rfl) rfl, rfl, rfl⟩

/-- Settles O1: each word is decoded by evaluation. -/
theorem specWordsDecode : Obligations.SpecWordsDecode := by
  unfold Obligations.SpecWordsDecode
  decide

end Sys2Proof
end

section
/-! The fields an instruction leaves, said once for all instructions, and the rules of the whole machine that follow: the
invariant, the frames of a cycle, and the faults (10_state.md R16, R19 to R24; 60_exceptions.md R161, R162). -/

namespace Sys2Proof.Machine

/-! ## What an instruction leaves outside V, I, PC and the timers -/

/-- The bytes an instruction stores at I (20_memory.md R41). -/
def storedBytes (i : Instr) (s : State) : List Byte :=
  match i with
  | .ldBVx x => bcdDigits (s.getV x)
  | .ldMemVx x => regsUpTo s x
  | _ => []

/-- SP after an instruction (10_state.md R16). -/
def spAfter (i : Instr) (s : State) : Byte :=
  match i with
  | .ret => s.popPC.sp
  | .callAddr _ => s.pushPC.sp
  | _ => s.sp

/-- The stack after an instruction (10_state.md R21). -/
def stkAfter (i : Instr) (s : State) : Vector Word 16 :=
  match i with
  | .callAddr _ => s.pushPC.stk
  | _ => s.stk

/-- Whether an instruction is CLS or DRW, the two that write the display (10_state.md R24). -/
def drawsDisplay : Instr → Bool
  | .cls | .drwVxVyN _ _ _ => true
  | _ => false

section
variable (i : Instr) (s : State)

/-- An instruction writes V, I, PC and the timers, and of the rest what the functions above say; the framebuffer only if
it is CLS or DRW. -/
theorem effect_eq : effect i s =
    { s with
      v := (effect i s).v, i := (effect i s).i, pc := (effect i s).pc, dt := (effect i s).dt, st := (effect i s).st
      sp := spAfter i s
      stk := stkAfter i s
      fb := if drawsDisplay i then (effect i s).fb else s.fb
      df := drawsDisplay i || s.df
      mem := Memory.writeBytes s.mem s.i.toNat (storedBytes i s) } := by
  cases i with
  | seVxNN | sneVxNN | seVxVy | sneVxVy | skpVx | sknpVx => simp only [effect]; split <;> rfl
  | ldVxK x => simp only [effect]; cases leastKey s <;> rfl
  | _ => rfl

theorem effect_sp : (effect i s).sp = spAfter i s := by rw [effect_eq]

theorem effect_stk : (effect i s).stk = stkAfter i s := by rw [effect_eq]

theorem effect_df : (effect i s).df = (drawsDisplay i || s.df) := by rw [effect_eq]

theorem effect_mem : (effect i s).mem = Memory.writeBytes s.mem s.i.toNat (storedBytes i s) := by rw [effect_eq]

theorem effect_cfg : (effect i s).cfg = s.cfg := by rw [effect_eq]

theorem effect_fb_of_not_drawsDisplay (h : drawsDisplay i = false) : (effect i s).fb = s.fb := by
  rw [effect_eq, h]; rfl

/-- An instruction leaves every byte it does not store to alone. -/
theorem readByte_effect_outside {a : Nat} (h : ¬ Touches s.i.toNat (storedBytes i s).length (memAddr a)) :
    (effect i s).readByte a = s.readByte a := by
  rw [State.readByte, effect_mem]
  exact readByte_writeBytes_outside s _ a _ h

end

section
variable {i : Instr} {s t : State}

theorem drawsDisplay_iff : drawsDisplay i = true ↔ i = .cls ∨ ∃ x y n, i = .drwVxVyN x y n := by
  cases i <;> simp [drawsDisplay]

/-- The instructions that store a byte are LD B,Vx and LD [I],Vx. -/
theorem touches_storedBytes {b : Nat} (h : Touches s.i.toNat (storedBytes i s).length b) :
    (∃ x, i = .ldBVx x ∧ Touches s.i.toNat 3 b) ∨ (∃ x, i = .ldMemVx x ∧ Touches s.i.toNat (x.val + 1) b) := by
  cases i with
  | ldBVx x => exact .inl ⟨x, rfl, h⟩
  | ldMemVx x => exact .inr ⟨x, rfl, by rwa [storedBytes, length_regsUpTo] at h⟩
  | _ => obtain ⟨_, hk, -⟩ := h; exact absurd hk (Nat.not_lt_zero _)

/-! ## The stack pointer -/

theorem toNat_sp_pushPC (h : s.sp.toNat < 16) : s.pushPC.sp.toNat = s.sp.toNat + 1 := by
  rw [pushPC_sp]
  bv_omega

theorem toNat_sp_popPC (h : 0 < s.sp.toNat) : s.popPC.sp.toNat + 1 = s.sp.toNat := by
  rw [popPC_sp]
  bv_omega

/-- SP after an instruction that answers a next state: CALL found room and RET an entry. -/
theorem exec_sp_cases (h : exec i s = .next t) :
    t.sp = s.sp ∨ (∃ nnn, i = .callAddr nnn ∧ s.sp.toNat < 16 ∧ t.sp.toNat = s.sp.toNat + 1) ∨
    (i = .ret ∧ t.sp.toNat + 1 = s.sp.toNat) := by
  have hsp : t.sp = spAfter i s := by rw [exec_eq_next h, effect_sp]
  cases i with
  | callAddr nnn =>
    have hroom := exec_call_eq_next h
    exact .inr (.inl ⟨nnn, rfl, hroom, hsp ▸ toNat_sp_pushPC hroom⟩)
  | ret => exact .inr (.inr ⟨rfl, hsp ▸ toNat_sp_popPC (exec_ret_eq_next h).1⟩)
  | _ => exact .inl hsp

/-! ## The invariant -/

/-- A pushed address has 12 bits. -/
theorem stkAt_stkAfter_lt (h : ∀ k : Fin 16, (s.stkAt k).toNat < 4096) (k : Fin 16) :
    (stkAfter i s)[k].toNat < 4096 := by
  cases i with
  | callAddr nnn =>
    change (s.pushPC.stkAt k).toNat < 4096
    rw [stkAt_pushPC]
    split
    · rw [BitVec.toNat_setWidth_of_le (by decide)]
      exact s.pc.isLt
    · exact h k
  | _ => exact h k

theorem exec_keeps_stateInv (hinv : StateInv s) (h : exec i s = .next t) : StateInv t := by
  obtain ⟨hmem, hsp, hstk⟩ := hinv
  refine ⟨?_, ?_, fun k => ?_⟩
  · rw [exec_eq_next h, effect_mem]
    exact wf_writeBytes _ hmem _
  · rcases exec_sp_cases h with heq | ⟨_, _, hroom, heq⟩ | ⟨_, heq⟩
    · rwa [heq]
    · omega
    · omega
  · rw [exec_eq_next h, State.stkAt, effect_stk]
    exact stkAt_stkAfter_lt hstk k

/-- The end of a cycle writes nothing the invariant speaks of. -/
theorem endCycle_keeps_stateInv (hinv : StateInv s) : StateInv (endCycle s) := by
  simpa [StateInv] using hinv

/-! ## A step as the effect of its instruction -/

theorem step_keeps_stateInv (hinv : StateInv s) (h : step s = .next t) : StateInv t := by
  obtain ⟨-, -, u, hexec, rfl⟩ := (step_eq_next_iff s).1 h
  exact endCycle_keeps_stateInv (exec_keeps_stateInv (s := advance s) hinv hexec)

/-- All a step can leave: the effect of its instruction on the advanced state, and the end of the cycle. -/
theorem step_eq_effect (h : step s = .next t) :
    t = endCycle (effect (decodeWord (fetchOpcode s)) (advance s)) := by
  obtain ⟨-, -, u, hexec, rfl⟩ := (step_eq_next_iff s).1 h
  rw [exec_eq_next hexec]

theorem step_cfg (h : step s = .next t) : t.cfg = s.cfg := by
  rw [step_eq_effect h, endCycle_cfg, effect_cfg, advance_cfg]

theorem step_df (h : step s = .next t) : t.df = (drawsDisplay (decodeWord (fetchOpcode s)) || s.df) := by
  rw [step_eq_effect h, endCycle_df, effect_df, advance_df]

theorem step_fb (hnot : drawsDisplay (decodeWord (fetchOpcode s)) = false) (h : step s = .next t) : t.fb = s.fb := by
  rw [step_eq_effect h, endCycle_fb, effect_fb_of_not_drawsDisplay _ _ hnot, advance_fb]

theorem step_sp_cases (h : step s = .next t) :
    t.sp = s.sp ∨ (∃ nnn, decodeWord (fetchOpcode s) = .callAddr nnn ∧ s.sp.toNat < 16 ∧ t.sp.toNat = s.sp.toNat + 1) ∨
    (decodeWord (fetchOpcode s) = .ret ∧ t.sp.toNat + 1 = s.sp.toNat) := by
  obtain ⟨-, -, u, hexec, rfl⟩ := (step_eq_next_iff s).1 h
  simpa using exec_sp_cases hexec

/-- A step writes one stack entry at most, that of a CALL at SP. -/
theorem step_stkAt (h : step s = .next t) (k : Fin 16) :
    t.stkAt k = s.stkAt k ∨ (s.sp.toNat = k.val ∧ ∃ nnn, decodeWord (fetchOpcode s) = .callAddr nnn) := by
  have heq : t.stkAt k = (stkAfter (decodeWord (fetchOpcode s)) (advance s))[k] := by
    rw [step_eq_effect h, stkAt_endCycle, State.stkAt, effect_stk]
  cases hi : decodeWord (fetchOpcode s) with
  | callAddr nnn =>
    rw [hi] at heq
    by_cases hk : s.sp.toNat = k.val
    · exact .inr ⟨hk, nnn, rfl⟩
    · exact .inl ((heq.trans (stkAt_pushPC (advance s) k)).trans (if_neg hk))
  | _ => rw [hi] at heq; exact .inl heq

/-! ## The faults of CALL and RET -/

theorem faultHere_advance (s : State) (cause : Addr → Word → Fault) :
    faultHere (advance s) cause = cause s.pc (fetchOpcode s) := by
  have hpc : (advance s).pc - 2 = s.pc := BitVec.add_sub_cancel s.pc 2
  rw [faultHere, hpc]; rfl

theorem exec_callAddr_full (nnn : Addr) (h : s.sp = 16) :
    exec (.callAddr nnn) s = .fault (faultHere s .stackOverflow) :=
  (guarded_eq_fault_iff _).2 (if_pos h)

theorem exec_ret_empty (h : s.sp = 0) : exec .ret s = .fault (faultHere s .stackUnderflow) :=
  (guarded_eq_fault_iff _).2 (if_pos h)

theorem exec_callAddr_above (nnn : Addr) (h : 16 < s.sp.toNat) :
    exec (.callAddr nnn) s = .fault (faultHere s .stackPointerInvalid) := by
  have hne : s.sp ≠ 16 := by bv_omega
  exact (guarded_eq_fault_iff _).2 ((if_neg hne).trans (if_pos h))

theorem exec_ret_above (h : 16 < s.sp.toNat) : exec .ret s = .fault (faultHere s .stackPointerInvalid) := by
  have hne : s.sp ≠ 0 := by bv_omega
  exact (guarded_eq_fault_iff _).2 ((if_neg hne).trans (if_pos h))

/-! ## Instructions that answer a next state -/

theorem exec_callAddr (nnn : Addr) (h : s.sp.toNat < 16) :
    exec (.callAddr nnn) s = .next (s.pushPC.setPC nnn) :=
  (guarded_eq_next_iff _).2 ⟨(pushCheck_eq_none_iff s).2 h, rfl⟩

theorem exec_ret (hpos : 0 < s.sp.toNat) (hle : s.sp.toNat ≤ 16) : exec .ret s = .next s.popPC :=
  (guarded_eq_next_iff _).2 ⟨(popCheck_eq_none_iff s).2 ⟨hpos, hle⟩, rfl⟩

/-- A skip whose target is within PC's range or may wrap. -/
theorem skipIf_eq {c : Bool} (h : c = true → s.cfg.pcOverrun = .fault → s.pc.toNat + 2 ≤ 0xFFF) :
    skipIf c s = .next (if c then s.skip else s) := by
  cases c
  · rfl
  · exact (guarded_eq_next_iff _).2 ⟨(pcCheck_eq_none_iff s _).2 (h rfl), rfl⟩

theorem keySkip_eq {x : RegIdx} {c : Bool} (hkey : s.cfg.keyIndex = .fault → (s.getV x).toNat ≤ 15)
    (h : c = true → s.cfg.pcOverrun = .fault → s.pc.toNat + 2 ≤ 0xFFF) :
    keySkip s x c = .next (if c then s.skip else s) := by
  rw [keySkip, (keyCheck_eq_none_iff s x).2 hkey]
  exact skipIf_eq h

theorem flagOp_eq {ops : List RegIdx} {x : RegIdx} {f : Byte} {res : State → Byte}
    (h : s.cfg.vfAlias = .literal ∨ VF ∉ ops) : flagOp s ops x f res = .next (flagThenResult s x f res) := by
  have hnot : vfAliasRefused s ops = false := by
    rcases h with h | h <;> simp [vfAliasRefused, h]
  rw [flagOp, hnot]; rfl

/-- Under the default switches an instruction stops only as CALL or RET, at the end of the stack. -/
theorem exec_default_eq_next (hd : DefaultSwitches s) (hcall : ∀ nnn, i = .callAddr nnn → s.sp.toNat < 16)
    (hret : i = .ret → 0 < s.sp.toNat ∧ s.sp.toNat ≤ 16) : exec i s = .next (effect i s) := by
  have hdraw := drawCheck_default s hd
  obtain ⟨haddr, -, hkey, hpc, halias, hcoord, -⟩ := hd
  cases i with
  | ret => exact exec_ret (hret rfl).1 (hret rfl).2
  | callAddr nnn => exact exec_callAddr nnn (hcall nnn rfl)
  | seVxNN | sneVxNN | seVxVy | sneVxVy => exact skipIf_eq (by simp [hpc])
  | skpVx | sknpVx => exact keySkip_eq (by simp [hkey]) (by simp [hpc])
  | addVxVy | subVxVy | shrVx | subnVxVy | shlVx => exact flagOp_eq (.inl halias)
  | jpV0Addr => exact (guarded_eq_next_iff _).2 ⟨(pcCheck_eq_none_iff s _).2 (by simp [hpc]), rfl⟩
  | ldBVx | ldMemVx | ldVxMem =>
    exact (guarded_eq_next_iff _).2 ⟨(memoryCheck_eq_none_iff s _ _).2 (by simp [haddr]), rfl⟩
  | drwVxVyN => simp [exec, execDrwVxVyN, hcoord, hdraw, effect]
  | ldVxK => simp only [exec, execLdVxK, effect]; cases leastKey s <;> rfl
  | _ => rfl

/-! ## A step under the default switches -/

theorem step_default (hd : DefaultSwitches s) :
    step s = finishCycle (exec (decodeWord (fetchOpcode s)) (advance s)) :=
  step_of_checks s (fetchCheck_default s hd) (decodeCheck_default s hd)

theorem step_callAddr_full {nnn : Addr} (hd : DefaultSwitches s) (hi : decodeWord (fetchOpcode s) = .callAddr nnn)
    (hsp : s.sp = 16) : step s = .fault (.stackOverflow s.pc (fetchOpcode s)) := by
  rw [step_default hd, hi, exec_callAddr_full nnn (s := advance s) hsp, faultHere_advance]; rfl

theorem step_ret_empty (hd : DefaultSwitches s) (hi : decodeWord (fetchOpcode s) = .ret) (hsp : s.sp = 0) :
    step s = .fault (.stackUnderflow s.pc (fetchOpcode s)) := by
  rw [step_default hd, hi, exec_ret_empty (s := advance s) hsp, faultHere_advance]; rfl

theorem step_eq_next_of_not_faultCondition (hd : DefaultSwitches s) (hsp : s.sp.toNat ≤ 16)
    (hnot : ¬ FaultCondition s) : ∃ t, step s = .next t := by
  rw [FaultCondition, not_or] at hnot
  obtain ⟨hcall, hret⟩ := hnot
  refine ⟨_, (step_default hd).trans (congrArg finishCycle (exec_default_eq_next (s := advance s) hd ?_ ?_))⟩
  · intro nnn hi
    have hne : s.sp ≠ 16 := fun hfull => hcall ⟨⟨nnn, hi⟩, hfull⟩
    exact Nat.lt_of_le_of_ne hsp fun heq => hne (BitVec.eq_of_toNat_eq heq)
  · intro hi
    have hne : s.sp ≠ 0 := fun hempty => hret ⟨hi, hempty⟩
    exact ⟨Nat.pos_of_ne_zero fun heq => hne (BitVec.eq_of_toNat_eq heq), hsp⟩

end

/-! ## The obligations -/

/-- Settles O15: the instruction keeps each part of the invariant, and the end of the cycle touches none. -/
theorem everyStepKeepsInv : Obligations.EveryStepKeepsInv := fun _ _ => step_keeps_stateInv

/-- Settles O18: CALL and RET at the ends of the stack are the only instructions that stop, and the step reports them at
its own address. -/
theorem faultsAreComplete : Obligations.FaultsAreComplete := by
  refine fun s hd hsp =>
    ⟨fun ⟨nnn, hi⟩ hfull => step_callAddr_full hd hi hfull, step_ret_empty hd,
      step_eq_next_of_not_faultCondition hd hsp, fun r hr => ?_⟩
  by_cases hfault : FaultCondition s
  · rcases hfault with ⟨⟨nnn, hi⟩, hfull⟩ | ⟨hi, hempty⟩
    · simp [step_callAddr_full hd hi hfull] at hr
    · simp [step_ret_empty hd hi hempty] at hr
  · obtain ⟨t, ht⟩ := step_eq_next_of_not_faultCondition hd hsp hfault
    simp [ht] at hr

/-- Settles O19: no instruction and no end of a cycle writes a latch or a parameter. -/
theorem stepKeepsKeysAndParameters : Obligations.StepKeepsKeysAndParameters :=
  fun _ _ h => ⟨step_key h, step_cfg h⟩

/-- Settles O20: a step raises DF if it is CLS or DRW and keeps it otherwise. -/
theorem onlyClsAndDrwTouchDisplay : Obligations.OnlyClsAndDrwTouchDisplay := by
  intro s t h
  have hdf := step_df h
  refine ⟨fun hs => by rw [hdf, hs, Bool.or_true], fun hi => by rw [hdf, drawsDisplay_iff.2 hi, Bool.true_or], ?_⟩
  intro hchanged
  by_contra hi
  have hnot : drawsDisplay (decodeWord (fetchOpcode s)) = false := Bool.eq_false_iff.2 (mt drawsDisplay_iff.1 hi)
  rcases hchanged with hfb | hdf'
  · exact hfb (step_fb hnot h)
  · exact hdf' (by rw [hdf, hnot, Bool.false_or])

/-- Settles O21: a byte that changed is one the instruction stored to. -/
theorem onlyStoresChangeMemory : Obligations.OnlyStoresChangeMemory := by
  intro s t a h hchanged
  refine touches_storedBytes (s := advance s) (not_not.1 fun houtside => hchanged ?_)
  rw [step_eq_effect h, readByte_endCycle, readByte_effect_outside _ _ houtside, readByte_advance]

/-- Settles O22: the three things a step can do to SP, and the one entry it can write. -/
theorem onlyCallAndRetTouchStack : Obligations.OnlyCallAndRetTouchStack := by
  refine fun s t h => ⟨fun hsp => ?_, fun k hk => (step_stkAt h k).resolve_left hk⟩
  rcases (step_sp_cases h).resolve_left hsp with ⟨nnn, hi, -, heq⟩ | hret
  · exact .inl ⟨nnn, hi, heq⟩
  · exact .inr hret

end Sys2Proof.Machine
end

section
/-! Reset and the other host operations: the contents of memory after a reset, the invariant through every host operation,
and the display read-back (10_state.md R29; 70_reset_and_hazards.md R185 to R196). -/

namespace Sys2Proof.Machine

section
variable {s t : State}

/-! ## Memory after a reset -/

theorem readByte_reset (a : Nat) (h : a < memSize) : State.reset.readByte a = Memory.initial a := by
  rw [State.readByte, memAddr, Nat.mod_eq_of_lt h]; rfl

theorem memoryInitial_eq_defaultFont (k : Fin 80) : Memory.initial k.val = defaultFont[k] := by
  revert k; decide

/-- Reset installs the machine's font at 0x000. -/
theorem readByte_hostReset_font (k : Fin 80) : (hostReset s).readByte k.val = s.cfg.font[k] := by
  have hreset : hostReset s = ({ hostReset s with mem := [] } : State).writeBytes 0 s.cfg.font.toList := rfl
  have hlen : s.cfg.font.toList.length = 80 := Vector.length_toList
  have hread := readByte_writeBytes_inside ({ hostReset s with mem := [] } : State) rfl 0 k.val s.cfg.font.toList
    (by rw [hlen]; exact k.isLt) (by rw [hlen]; decide)
  rw [← hreset, Nat.zero_add] at hread
  rw [hread]
  exact Vector.getElem_toList _

/-! ## The invariant -/

theorem stateInv_reset : StateInv State.reset :=
  ⟨rfl, Nat.zero_le _, fun k => by rw [State.stkAt]; simp [State.reset]⟩

/-- The invariant after a reset, whatever the machine's font. -/
theorem stateInv_hostReset (s : State) : StateInv (hostReset s) :=
  ⟨wf_resetMemory s.cfg.font, stateInv_reset.2⟩

theorem stateInv_writeBytes (a : Nat) (bytes : List Byte) (h : StateInv s) : StateInv (s.writeBytes a bytes) :=
  ⟨wf_writeBytes bytes h.1 a, h.2⟩

theorem stateInv_hostLoad (bytes : List Byte) (s : State) : StateInv (hostLoad bytes s) := by
  unfold hostLoad
  split
  · exact stateInv_hostReset s
  · exact stateInv_writeBytes _ _ (stateInv_hostReset s)

theorem hostApply_keeps_stateInv {o : HostOp} (hinv : StateInv s) (h : hostApply o s = .next t) : StateInv t := by
  cases o with
  | reset => cases h; exact stateInv_hostReset s
  | load bytes => cases h; exact stateInv_hostLoad bytes s
  | step => exact step_keeps_stateInv hinv h
  | tick => rw [hostApply_tick_eq_next h]; exact hinv
  | setKey n q => obtain ⟨_, _, rfl⟩ := hostApply_setKey_eq_next h; exact hinv
  | clearDF => cases h; exact hinv

end

/-- Settles O16: nothing is listed in memory, SP is 0 and every stack entry 0. -/
theorem resetMeetsInv : Obligations.ResetMeetsInv := stateInv_reset

/-- Settles O17, by cases on the host operations. -/
theorem hostOperationsKeepInv : Obligations.HostOperationsKeepInv := fun _ _ _ => hostApply_keeps_stateInv

/-- Settles O24: an unlisted byte of memory reads as the default font, and zero above it. -/
theorem resetState : Obligations.ResetState := by
  refine ⟨fun r => Vector.getElem_replicate r.isLt, rfl, rfl, rfl, fun k => Vector.getElem_replicate k.isLt, rfl, rfl,
    fun k => Vector.getElem_replicate k.isLt, fun x _ y hy => ?pixel, rfl, rfl, fun k => ?font, fun a hlo hhi => ?above⟩
  case pixel => simp [State.pixel, FrameBuf.pixel, State.reset, hy]
  case font => exact (readByte_reset k.val (k.isLt.trans (by decide))).trans (memoryInitial_eq_defaultFont k)
  case above => exact (readByte_reset a hhi).trans (memoryInitial_eq_zero hlo)

/-- Settles O25: reset reads the parameters and the draw number only, and keeps both. -/
theorem resetIsTotal : Obligations.ResetIsTotal :=
  ⟨fun s t hcfg hdraws => by rw [hostReset, hostReset, hcfg, hdraws], fun s =>
    ⟨rfl, wf_resetMemory s.cfg.font, readByte_hostReset_font, fun _ => readByte_hostReset_above s, rfl⟩⟩

/-- Settles O28: display element x + 64 y splits into column x and row y. -/
theorem clearDrawFlagAndReadBack : Obligations.ClearDrawFlagAndReadBack := by
  refine fun s k p => ⟨rfl, fun hk => dif_neg (Nat.not_lt.2 hk), fun x hx y _ => ?_⟩
  have hcol : (x + 64 * y) % 64 = x := by omega
  have hrow : (x + 64 * y) / 64 = y := by omega
  rw [State.display, hcol, hrow]

end Sys2Proof.Machine
end

section
/-! DF and TONE gate nothing (10_state.md R20, R25; 70_reset_and_hazards.md R194): the outcome of a step from two states
that differ in nothing else. -/

namespace Sys2Proof.Machine

/-- Outcomes that agree: the same fault or refusal, or next states that differ in DF and TONE only. -/
def AgreeButFlags (o o' : Result) : Prop :=
  match o with
  | .next t => ∃ t', o' = .next t' ∧ t' = { t with df := t'.df, tone := t'.tone }
  | .fault f => o' = .fault f
  | .refused r => o' = .refused r

theorem agreeButFlags_next {t t' : State} (h : t' = { t with df := t'.df, tone := t'.tone }) :
    AgreeButFlags (.next t) (.next t') := ⟨t', rfl, h⟩

theorem agreeButFlags_guarded (f : Option Fault) {t t' : State} (h : t' = { t with df := t'.df, tone := t'.tone }) :
    AgreeButFlags (guarded f t) (guarded f t') := by
  cases f
  · exact agreeButFlags_next h
  · rfl

theorem agreeButFlags_ite (c : Bool) {o₁ o₂ o₁' o₂' : Result} (h₁ : AgreeButFlags o₁ o₁') (h₂ : AgreeButFlags o₂ o₂') :
    AgreeButFlags (if c then o₁ else o₂) (if c then o₁' else o₂') := by
  cases c
  · exact h₂
  · exact h₁

section
variable (s : State) (d b : Bool)

theorem skipIf_agreeButFlags (c : Bool) : AgreeButFlags (skipIf c s) (skipIf c { s with df := d, tone := b }) :=
  agreeButFlags_ite c (agreeButFlags_guarded _ rfl) (agreeButFlags_next rfl)

theorem keySkip_agreeButFlags (x : RegIdx) (c : Bool) :
    AgreeButFlags (keySkip s x c) (keySkip { s with df := d, tone := b } x c) := by
  have hcheck : keyCheck { s with df := d, tone := b } x = keyCheck s x := rfl
  unfold keySkip
  rw [hcheck]
  cases keyCheck s x
  · exact skipIf_agreeButFlags s d b c
  · rfl

/-- A load of registers reads V and memory only. -/
theorem loadRegs_of_flags (a n : Nat) : loadRegs { s with df := d, tone := b } a n = loadRegs s a n := by
  induction n with
  | zero => rfl
  | succ n ih => rw [loadRegs, ih]; rfl

/-- No instruction reads DF or TONE: what it checks and computes from two states that differ in them is the same. -/
theorem exec_agreeButFlags (i : Instr) :
    AgreeButFlags (exec i s) (exec i { s with df := d, tone := b }) := by
  cases i with
  | ret | callAddr | jpV0Addr | ldBVx | ldMemVx => exact agreeButFlags_guarded _ rfl
  | ldVxMem x =>
    refine agreeButFlags_guarded (memoryCheck s s.i.toNat (x.val + 1)) ?_
    rw [loadRegs_of_flags]
    rfl
  | seVxNN | sneVxNN | seVxVy | sneVxVy => exact skipIf_agreeButFlags s d b _
  | skpVx | sknpVx => exact keySkip_agreeButFlags s d b _ _
  | addVxVy | subVxVy | shrVx | subnVxVy | shlVx => exact agreeButFlags_ite _ rfl (agreeButFlags_next rfl)
  | drwVxVyN => exact agreeButFlags_ite _ rfl (agreeButFlags_guarded _ rfl)
  | ldVxK x =>
    have hkey : leastKey { s with df := d, tone := b } = leastKey s := rfl
    simp only [exec, execLdVxK, hkey]
    cases leastKey s <;> exact agreeButFlags_next rfl
  | _ => exact agreeButFlags_next rfl

end

/-- The end of a cycle sets TONE, so states that differ in DF and TONE end it differing in DF only. -/
theorem endCycle_agree {t t' : State} (h : t' = { t with df := t'.df, tone := t'.tone }) :
    endCycle t' = { endCycle t with df := (endCycle t').df } := by
  rw [h]
  unfold endCycle
  cases t.cfg.timerMode <;> rfl

theorem finishCycle_agree {o o' : Result} (h : AgreeButFlags o o') :
    (∀ f, finishCycle o = .fault f → finishCycle o' = .fault f) ∧
    (∀ r, finishCycle o = .refused r → finishCycle o' = .refused r) ∧
    (∀ t, finishCycle o = .next t → ∃ t', finishCycle o' = .next t' ∧ t' = { t with df := t'.df }) := by
  cases o with
  | next t =>
    obtain ⟨t', rfl, ht'⟩ := h
    simpa [finishCycle] using endCycle_agree ht'
  | fault f =>
    obtain rfl : o' = .fault f := h
    simp [finishCycle]
  | refused r =>
    obtain rfl : o' = .refused r := h
    simp [finishCycle]

/-- Settles O23: the checks before the instruction, the instruction, and the end of the cycle do not read DF or TONE. -/
theorem drawFlagAndToneGateNothing : Obligations.DrawFlagAndToneGateNothing := by
  intro s d b
  have hfetch : fetchCheck { s with df := d, tone := b } = fetchCheck s := rfl
  have hdecode : decodeCheck { s with df := d, tone := b } = decodeCheck s := rfl
  rw [step, step, hfetch, hdecode]
  cases fetchCheck s with
  | some f => simp
  | none =>
    cases decodeCheck s with
    | some r => simp
    | none => exact finishCycle_agree (exec_agreeButFlags (advance s) d b _)

end Sys2Proof.Machine
end

section
/-! The cycle around the instruction: a step no strict check stops, the end of the cycle in each timer mode, and what is
fetched after a store (30_encoding.md R60, R68; 20_memory.md R44, R52; 60_exceptions.md R171). -/

namespace Sys2Proof.Machine

section
variable {i : Instr} {s t u : State}

/-! ## The step and the end of the cycle -/

/-- A step is its instruction and the end of the cycle under the default switches, and whenever no strict check stops it. -/
theorem step_eq_finishCycle (h : DefaultSwitches s ∨ (fetchCheck s = none ∧ decodeCheck s = none)) :
    step s = finishCycle (exec (decodeWord (fetchOpcode s)) (advance s)) := by
  rcases h with hd | ⟨hfetch, hdecode⟩
  · exact step_default hd
  · exact step_of_checks s hfetch hdecode

theorem step_eq_next (h : DefaultSwitches s ∨ (fetchCheck s = none ∧ decodeCheck s = none))
    (hi : decodeWord (fetchOpcode s) = i) (hexec : exec i (advance s) = .next t) : step s = .next (endCycle t) := by
  rw [step_eq_finishCycle h, hi, hexec, finishCycle]

theorem endCycle_perCycle (h : s.cfg.timerMode = .perCycle) :
    endCycle s = { timerTick s with draws := s.draws + 1 } := by
  rw [endCycle, h]

theorem endCycle_separate (h : s.cfg.timerMode = .separate) :
    endCycle s = { s with tone := false, draws := s.draws + 1 } := by
  rw [endCycle, h]

/-! In per_cycle mode the end of a cycle is a timer tick. -/

theorem toNat_dt_endCycle (h : s.cfg.timerMode = .perCycle) : (endCycle s).dt.toNat = s.dt.toNat - 1 := by
  rw [endCycle_perCycle h]
  exact toNat_dt_timerTick s

theorem toNat_st_endCycle (h : s.cfg.timerMode = .perCycle) : (endCycle s).st.toNat = s.st.toNat - 1 := by
  rw [endCycle_perCycle h]
  exact toNat_st_timerTick s

theorem tone_endCycle_iff (h : s.cfg.timerMode = .perCycle) : (endCycle s).tone = true ↔ s.st = 1 := by
  rw [endCycle_perCycle h]
  exact tone_timerTick_iff s

theorem exec_cfg (h : exec i s = .next t) : t.cfg = s.cfg := by
  rw [exec_eq_next h, effect_cfg]

/-! ## Fetch and store -/

theorem fetchOpcode_endCycle : fetchOpcode (endCycle s) = fetchOpcode s := by
  simp [fetchOpcode, State.readWord]

/-- The word of two bytes just written is read back, also across the top of memory. -/
theorem readWord_writeBytes (h : Memory.wf s.mem = true) (a : Nat) (hi lo : Byte) :
    (s.writeBytes a [hi, lo]).readWord a = hi ++ lo := by
  have hhi := readByte_writeBytes_inside s h a 0 [hi, lo] (by simp) (by simp [memSize])
  have hlo := readByte_writeBytes_inside s h a 1 [hi, lo] (by simp) (by simp [memSize])
  rw [Nat.add_zero] at hhi
  rw [State.readWord, hhi, hlo]
  rfl

theorem memAddr_add_memSize (a : Nat) : memAddr (a + 4096) = memAddr a := Nat.add_mod_right a 4096

theorem memAddr_mod (a : Nat) : memAddr (a % 4096) = memAddr a := Nat.mod_mod a 4096

theorem readByte_congr_memAddr {a b : Nat} (h : memAddr a = memAddr b) : s.readByte a = s.readByte b := by
  rw [State.readByte, h, State.readByte]

/-! ## Cycles that end where they began -/

/-- The advance is undone by a write of the PC of the fetch. -/
theorem advance_setPC (s : State) : (advance s).setPC s.pc = s := rfl

theorem exec_ldVxK_waiting (x : RegIdx) (h : ∀ k : Fin 16, s.keyAt k = false) :
    exec (.ldVxK x) s = .next (s.setPC (s.pc - 2)) := by
  rw [exec, execLdVxK, (leastKey_eq_none_iff s).2 h]

theorem exec_ldVxK_pressed (x : RegIdx) {k : Fin 16} (hk : s.keyAt k = true)
    (hleast : ∀ j : Fin 16, j < k → s.keyAt j = false) :
    exec (.ldVxK x) s = .next (s.setV x (BitVec.ofNat 8 k.val)) := by
  rw [exec, execLdVxK, (leastKey_eq_some_iff s k).2 ⟨hk, hleast⟩]

theorem step_stopped (hstop : Stopped s) (h : DefaultSwitches s ∨ (fetchCheck s = none ∧ decodeCheck s = none)) :
    step s = .next (endCycle s) := by
  have hi : decodeWord (fetchOpcode s) = .jpAddr s.pc := by rw [hstop]; exact decodeWord_jpAddr s.pc
  exact step_eq_next h hi (exec_jpAddr (advance s) s.pc)

theorem stopped_endCycle (hstop : Stopped s) : Stopped (endCycle s) := by
  rw [Stopped, fetchOpcode_endCycle, endCycle_pc]
  exact hstop

theorem step_waiting {x : RegIdx} (hi : decodeWord (fetchOpcode s) = .ldVxK x) (hkey : ∀ k : Fin 16, s.keyAt k = false)
    (h : DefaultSwitches s ∨ (fetchCheck s = none ∧ decodeCheck s = none)) : step s = .next (endCycle s) := by
  have hpc : (advance s).pc - 2 = s.pc := BitVec.add_sub_cancel s.pc 2
  rw [step_eq_next h hi (exec_ldVxK_waiting (s := advance s) x hkey), hpc, advance_setPC]

end

/-! ## The obligations -/

/-- Settles O7: the step is the instruction and the end of the cycle, whose mode no instruction changes. -/
theorem stepRunsDecodedInstruction : Obligations.StepRunsDecodedInstruction := by
  intro s i hdec _ hchecks
  have hi : decodeWord (fetchOpcode s) = i := congrArg Prod.fst (Except.ok.inj hdec)
  have hstep : step s = finishCycle (exec i (advance s)) := hi ▸ step_eq_finishCycle hchecks
  refine ⟨fun t hexec => ?_, fun f hexec => hstep.trans (congrArg finishCycle hexec),
    fun r hexec => hstep.trans (congrArg finishCycle hexec)⟩
  have hnext : step s = .next (endCycle t) := hstep.trans (congrArg finishCycle hexec)
  have hcfg : t.cfg = s.cfg := exec_cfg (s := advance s) hexec
  rw [hnext, ← hcfg]
  exact ⟨fun hmode => by rw [endCycle_perCycle hmode], fun hmode => by rw [endCycle_separate hmode]⟩

/-- Settles O8: an unknown opcode leaves the advanced state as it is. -/
theorem unknownOpcodeCycle : Obligations.UnknownOpcodeCycle := by
  intro s op
  refine ⟨rfl, fun hfetch hdec hchecks => ?_⟩
  have hstep : step s = .next (endCycle (advance s)) :=
    step_eq_next (i := .unknown op) hchecks (hfetch ▸ hdec) rfl
  rw [hstep]
  exact ⟨fun hmode => congrArg _ (endCycle_perCycle (s := advance s) hmode),
    fun hmode => congrArg _ (endCycle_separate (s := advance s) hmode)⟩

/-- Settles O10: the fetch after a write at PC reads the word back; withFetchWord writes a word's two bytes there. -/
theorem storeSeenByNextFetch : Obligations.StoreSeenByNextFetch := by
  have hstore : ∀ (s : State) (a : Addr) (hi lo : Byte), Memory.wf s.mem = true →
      fetchOpcode ((s.writeBytes a.toNat [hi, lo]).setPC a) = hi ++ lo := by
    intro s a hi lo hwf
    rw [fetchOpcode_setPC, readWord_writeBytes hwf]
  refine ⟨hstore, fun s w hwf => ?_⟩
  have hw : BitVec.ofNat 16 (w.toNat % 2 ^ 16) = w := by
    rw [Nat.mod_eq_of_lt w.isLt, BitVec.ofNat_toNat, BitVec.setWidth_eq]
  rw [State.withFetchWord, hw]
  exact (hstore s s.pc _ _ hwf).trans (wordBytes_append w)

/-- Settles O11: an address and the address 4096 above it are one address of memory. -/
theorem addressesWrap : Obligations.AddressesWrap := by
  refine fun s a b => ⟨readByte_congr_memAddr (memAddr_add_memSize a), ?_, fun hwf => ?_⟩
  · rw [State.writeBytes, Memory.writeBytes, memAddr_add_memSize]
    rfl
  · rw [readByte_congr_memAddr (memAddr_mod a)]
    exact readByte_writeBytes_inside s hwf a 0 [b] (by simp) (by simp [memSize])

/-- Settles O13: a step ends its instruction's state by the mode of the machine, which the instruction did not change. -/
theorem tickPlacement : Obligations.TickPlacement := by
  refine fun s => ⟨fun hmode => if_pos hmode, fun hmode => if_neg (by simp [hmode]), fun t u hexec hstep => ?_⟩
  obtain ⟨-, -, u', hexec', rfl⟩ := (step_eq_next_iff s).1 hstep
  obtain rfl : u = u' := by simpa [hexec] using hexec'
  have hcfg : u.cfg = s.cfg := exec_cfg (s := advance s) hexec
  rw [← hcfg]
  refine ⟨fun hmode => ?_, fun hmode => ?_⟩
  · rw [endCycle_separate hmode]
    exact ⟨rfl, rfl, rfl⟩
  · rw [endCycle_perCycle hmode]
    exact ⟨rfl, rfl, rfl⟩

/-- Settles O14: the tick takes one from the timer the instruction left. -/
theorem timerWriteThenTick : Obligations.TimerWriteThenTick := by
  intro s x hmode hchecks
  refine ⟨fun hi => ⟨_, step_eq_next hchecks hi rfl, ?_⟩, fun hi => ⟨_, step_eq_next hchecks hi rfl, ?_⟩,
    fun hi => ⟨_, step_eq_next hchecks hi rfl, ?_⟩⟩
  · exact ⟨toNat_dt_endCycle (s := (advance s).setDT _) hmode, endCycle_pc _⟩
  · exact ⟨toNat_st_endCycle (s := (advance s).setST _) hmode, tone_endCycle_iff (s := (advance s).setST _) hmode⟩
  · exact ⟨(getV_endCycle _ x).trans (getV_setV_self _ x _), toNat_dt_endCycle (s := (advance s).setV x _) hmode⟩

/-- Settles O29: JP to its own address undoes the advance. -/
theorem stoppedStaysStopped : Obligations.StoppedStaysStopped :=
  fun s hstop hchecks => ⟨endCycle s, step_stopped hstop hchecks, stopped_endCycle hstop, endCycle_eq s⟩

/-- Settles O53: LD Vx,K with no key pressed undoes the advance. -/
theorem waitingCycleOnlyTicks : Obligations.WaitingCycleOnlyTicks := by
  refine fun x s hi hkey hchecks => ⟨endCycle s, step_waiting hi hkey hchecks, endCycle_eq s, fun hmode => ?_⟩
  exact ⟨toNat_dt_endCycle hmode, toNat_st_endCycle hmode⟩

end Sys2Proof.Machine
end

section
/-! The flag-writing arithmetic, the shifts and the random byte (41_alu.md R104, R109 to R114): flags as numbers, and
registers after a flag and a result are written. -/

namespace Sys2Proof.Machine

/-! ## Flags and results as numbers -/

theorem toNat_flagByte (p : Prop) [Decidable p] : (flagByte (decide p)).toNat = if p then 1 else 0 := by
  by_cases h : p <;> simp [flagByte, h]

theorem toNat_lsbFlag (a : Byte) : (lsbFlag a).toNat = a.toNat % 2 := by
  rw [lsbFlag, BitVec.getLsbD_eq_getElem (by decide), BitVec.getElem_eq_testBit_toNat, Nat.testBit_zero, toNat_flagByte]
  split <;> omega

theorem toNat_msbFlag (a : Byte) : (msbFlag a).toNat = a.toNat / 128 := by
  have hbit : a.getLsbD 7 = decide (128 ≤ a.toNat) := BitVec.msb_eq_decide a
  rw [msbFlag, hbit, toNat_flagByte]
  split <;> omega

theorem toNat_byte_sub (a b : Byte) : (a - b).toNat = (a.toNat + 256 - b.toNat) % 256 := by
  rw [BitVec.toNat_sub]
  omega

theorem toNat_shiftRight_one (a : Byte) : (a >>> 1).toNat = a.toNat / 2 := by
  rw [BitVec.toNat_ushiftRight, Nat.shiftRight_one]

theorem toNat_shiftLeft_one (a : Byte) : (a <<< 1).toNat = a.toNat * 2 % 256 := by
  rw [BitVec.toNat_shiftLeft, Nat.shiftLeft_eq, Nat.pow_one]

/-! ## Registers after flag and result -/

section
variable (s : State) (x r : RegIdx) (f : Byte) (res : State → Byte)

theorem getV_flagThenResult_self : (flagThenResult s x f res).getV x = res (s.setV VF f) := by
  rw [getV_flagThenResult, if_pos rfl]

theorem getV_flagThenResult_VF (h : x ≠ VF) : (flagThenResult s x f res).getV VF = f := by
  rw [getV_flagThenResult, if_neg h.symm, if_pos rfl]

/-- An operand as the result sees it: the flag, if the operand is VF. -/
theorem toNat_getV_setV_VF :
    ((s.setV VF f).getV r).toNat = if r = VF then f.toNat else (s.getV r).toNat := by
  rw [getV_setV]; split <;> rfl

theorem onlyRegs_flagThenResult : OnlyRegs [x, VF] s (flagThenResult s x f res) := by
  refine ⟨fun r hr => ?_, readByte_flagThenResult s x f res, rfl⟩
  obtain ⟨hx, hVF⟩ : r ≠ x ∧ r ≠ VF := by simpa using hr
  rw [getV_flagThenResult, if_neg hx, if_neg hVF]

end

section
variable {s : State} {x y : RegIdx} (h : s.cfg.vfAlias = .literal ∨ (x ≠ VF ∧ y ≠ VF))
include h

theorem literal_or_not_mem_pair : s.cfg.vfAlias = .literal ∨ VF ∉ [x, y] :=
  h.imp_right fun ⟨hx, hy⟩ => by simp [hx.symm, hy.symm]

/-- A subtraction with its no-borrow flag, of either operand from the other. -/
theorem flagOp_sub (a b : RegIdx) :
    ∃ t f u v, flagOp s [x, y] x (noBorrowFlag (s.getV a) (s.getV b)) (fun t => t.getV a - t.getV b) = .next t ∧
      f = (if (s.getV a).toNat ≥ (s.getV b).toNat then 1 else 0) ∧
      u = (if a = VF then f else (s.getV a).toNat) ∧ v = (if b = VF then f else (s.getV b).toNat) ∧
      (t.getV x).toNat = (u + 256 - v) % 256 ∧ (x ≠ VF → (t.getV VF).toNat = f) ∧ OnlyRegs [x, VF] s t := by
  refine ⟨_, _, _, _, flagOp_eq (literal_or_not_mem_pair h), rfl, rfl, rfl, ?_, fun hx => ?_,
    onlyRegs_flagThenResult s x _ _⟩
  · rw [getV_flagThenResult_self, toNat_byte_sub, toNat_getV_setV_VF, toNat_getV_setV_VF, noBorrowFlag, toNat_flagByte]
  · rw [getV_flagThenResult_VF _ _ _ _ hx, noBorrowFlag, toNat_flagByte]

end

/-- Settles O33: the sum of the operands as they are after the carry is in VF. -/
theorem addVxVyCarry : Obligations.AddVxVyCarry := by
  refine fun x y s h => ⟨_, _, _, _, flagOp_eq (literal_or_not_mem_pair h), rfl, rfl, rfl, ?_, fun hx => ?_,
    onlyRegs_flagThenResult s x _ _⟩
  · rw [getV_flagThenResult_self, BitVec.toNat_add, toNat_getV_setV_VF, toNat_getV_setV_VF, carryFlag, toNat_flagByte]
  · rw [getV_flagThenResult_VF _ _ _ _ hx, carryFlag, toNat_flagByte]

/-- Settles O34: SUB takes V[Y] from V[X], SUBN V[X] from V[Y]. -/
theorem subAndSubnNoBorrow : Obligations.SubAndSubnNoBorrow := by
  refine fun x y s h => ⟨flagOp_sub h x y, ?_⟩
  obtain ⟨t, f, u, v, hexec, hf, hu, hv, hrest⟩ := flagOp_sub h y x
  exact ⟨t, f, v, u, hexec, hf, hv, hu, hrest⟩

/-- Settles O35: the bit shifted out goes to VF, and V[X] as it is after that is shifted. -/
theorem shrAndShlByOne : Obligations.ShrAndShlByOne := by
  intro x y s h
  have hop : s.cfg.vfAlias = .literal ∨ VF ∉ [x] := h.imp_right fun hx => by simp [hx.symm]
  refine ⟨⟨_, _, _, flagOp_eq hop, rfl, rfl, ?_, fun hx => ?_, onlyRegs_flagThenResult s x _ _⟩,
    ⟨_, _, _, flagOp_eq hop, rfl, rfl, ?_, fun hx => ?_, onlyRegs_flagThenResult s x _ _⟩⟩
  · rw [getV_flagThenResult_self, toNat_shiftRight_one, toNat_getV_setV_VF, toNat_lsbFlag]
  · rw [getV_flagThenResult_VF _ _ _ _ hx, toNat_lsbFlag]
  · rw [getV_flagThenResult_self, toNat_shiftLeft_one, toNat_getV_setV_VF, toNat_msbFlag]
  · rw [getV_flagThenResult_VF _ _ _ _ hx, toNat_msbFlag]

/-- Settles O36: RND is a write of V[X], of the random byte under the mask NN. -/
theorem rndIsMasked : Obligations.RndIsMasked := by
  refine fun x nn s => ⟨_, rfl, onlyRegs_setV s x _, fun k _ => ?_, fun hnn => ?_⟩
  · rw [getV_setV_self, BitVec.getLsbD_and]
  · rw [getV_setV_self, hnn]
    exact BitVec.and_zero

end Sys2Proof.Machine
end

section
/-! The index register and memory: ADD I,Vx, and the three instructions that store and load bytes at I (42_index_memory.md
R121, R123 to R125). -/

namespace Sys2Proof.Machine

section
variable {s t u : State} {x : RegIdx}

/-- A premise that a switch is at its default, or else `p`, is `p` where the switch is not at its default. -/
theorem of_switch_or {α : Type} {switch default strict : α} {p : Prop} (hne : default ≠ strict)
    (h : switch = default ∨ p) (hstrict : switch = strict) : p :=
  h.resolve_left fun hdefault => hne (hdefault.symm.trans hstrict)

/-- An access that ends within memory, or may wrap, is not stopped. -/
theorem memoryCheck_of_fits {a n : Nat} (h : s.cfg.addrOverrun = .wrap ∨ a + (n - 1) ≤ 0xFFF) :
    memoryCheck s a n = none :=
  (memoryCheck_eq_none_iff s a n).2 fun hfault _ => of_switch_or (by decide) h hfault

theorem exec_ldBVx (h : memoryCheck s s.i.toNat 3 = none) :
    exec (.ldBVx x) s = .next (s.writeBytes s.i.toNat (bcdDigits (s.getV x))) :=
  (guarded_eq_next_iff _).2 ⟨h, rfl⟩

theorem exec_ldMemVx (h : memoryCheck s s.i.toNat (x.val + 1) = none) :
    exec (.ldMemVx x) s = .next ((s.writeBytes s.i.toNat (regsUpTo s x)).setI (indexAfter s x)) :=
  (guarded_eq_next_iff _).2 ⟨h, rfl⟩

theorem exec_ldVxMem (h : memoryCheck s s.i.toNat (x.val + 1) = none) :
    exec (.ldVxMem x) s = .next { s with v := loadRegs s s.i.toNat (x.val + 1), i := indexAfter s x } :=
  (guarded_eq_next_iff _).2 ⟨h, rfl⟩

theorem toNat_indexAfter : (indexAfter s x).toNat = (s.i.toNat + x.val + 1) % 65536 := by
  rw [indexAfter, BitVec.toNat_add, BitVec.toNat_ofNat, Nat.add_mod_mod, Nat.add_assoc]

/-! ## The digits of a byte -/

theorem getElem_bcdDigits (b : Byte) :
    ((bcdDigits b)[0]).toNat = b.toNat / 100 ∧ ((bcdDigits b)[1]).toNat = b.toNat / 10 % 10 ∧
    ((bcdDigits b)[2]).toNat = b.toNat % 10 := by
  simp only [bcdDigits, List.getElem_cons_zero, List.getElem_cons_succ, BitVec.toNat_ofNat]
  omega

/-! ## Registers stored and loaded -/

/-- V[r] is stored at I + r, for r up to X. -/
theorem readByte_writeBytes_regsUpTo (hwf : Memory.wf s.mem = true) (a : Nat) {r : RegIdx} (hr : r ≤ x) :
    (s.writeBytes a (regsUpTo s x)).readByte (a + r.val) = s.getV r := by
  have hlen : r.val < (regsUpTo s x).length := by
    rw [length_regsUpTo]
    exact Nat.lt_succ_of_le hr
  rw [readByte_writeBytes_inside s hwf a r.val _ hlen (by rw [length_regsUpTo, memSize]; omega), getElem_regsUpTo]

/-- V[r] is loaded from I + r, for r up to X. -/
theorem getElem_loadRegs_of_le (a : Nat) {r : RegIdx} (hr : r ≤ x) :
    (loadRegs s a (x.val + 1))[r] = s.readByte (a + r.val) :=
  (getElem_loadRegs s a _ r.val r.isLt).trans (if_pos (Nat.lt_succ_of_le hr))

theorem getElem_loadRegs_of_lt (a : Nat) {r : RegIdx} (hr : x < r) :
    (loadRegs s a (x.val + 1))[r] = s.getV r :=
  (getElem_loadRegs s a _ r.val r.isLt).trans (if_neg (Nat.not_lt.2 (Nat.succ_le_of_lt hr)))

end

/-- Settles O38: the 16-bit sum and the flag of the true sum are both of the state before. -/
theorem addIVxFlagsOverrun : Obligations.AddIVxFlagsOverrun := by
  refine fun x s => ⟨_, rfl, ?_, ?_, fun r hr => ?_, fun _ => rfl, rfl⟩
  · rw [setV_i, setI_i, BitVec.toNat_add, BitVec.toNat_setWidth_of_le (by decide)]
  · rw [getV_setV_self, indexFlag, toNat_flagByte]
  · rw [getV_setV_ne _ (List.ne_of_not_mem_cons hr), getV_setI]

/-- Settles O40: LD B,Vx is a write of the three digits at I. -/
theorem ldBVxStoresDigits : Obligations.LdBVxStoresDigits := by
  intro x s hwf hfits
  obtain ⟨hhundreds, htens, hunits⟩ := getElem_bcdDigits (s.getV x)
  have hread : ∀ k (hk : k < 3), (s.writeBytes s.i.toNat (bcdDigits (s.getV x))).readByte (s.i.toNat + k) =
      (bcdDigits (s.getV x))[k]'hk :=
    fun k hk => readByte_writeBytes_inside s hwf _ k (bcdDigits (s.getV x)) hk
      (by rw [length_bcdDigits]; decide)
  refine ⟨_, exec_ldBVx (memoryCheck_of_fits hfits), ?_, ?_, ?_, fun a =>
    readByte_writeBytes_outside s _ a (bcdDigits (s.getV x)),
    getV_writeBytes s _ _, rfl⟩
  · rw [← hhundreds, ← hread 0 (by decide), Nat.add_zero]
  · rw [← htens, ← hread 1 (by decide)]
  · rw [← hunits, ← hread 2 (by decide)]

/-- Settles O41: LD [I],Vx is a write of V[0..X] at I and of I. -/
theorem ldMemVxStoresRegisters : Obligations.LdMemVxStoresRegisters := by
  refine fun x s hwf hfits =>
    ⟨_, exec_ldMemVx (memoryCheck_of_fits hfits), fun r hr => readByte_writeBytes_regsUpTo hwf _ hr,
      fun a ha => readByte_writeBytes_outside s _ a _ ?_, toNat_indexAfter, fun _ => rfl, rfl⟩
  rwa [length_regsUpTo]

/-- Settles O42: LD Vx,[I] is a load of V[0..X] from I and a write of I. -/
theorem ldVxMemLoadsRegisters : Obligations.LdVxMemLoadsRegisters := fun _ _ hfits =>
  ⟨_, exec_ldVxMem (memoryCheck_of_fits hfits), fun _ hr => getElem_loadRegs_of_le _ hr,
    fun _ hr => getElem_loadRegs_of_lt _ hr, toNat_indexAfter, fun _ => rfl, rfl⟩

/-- Settles O43: the load reads each byte where the store wrote it, under the check the store passed. -/
theorem storeLoadRoundTrip : Obligations.StoreLoadRoundTrip := by
  intro x s t u hwf hstore hmem hi hcfg
  obtain ⟨hcheck, rfl⟩ := (guarded_eq_next_iff _).1 hstore
  have hcheck' : memoryCheck u u.i.toNat (x.val + 1) = none := by
    rw [memoryCheck_eq_none_iff, hcfg, hi]
    exact (memoryCheck_eq_none_iff s _ _).1 hcheck
  refine ⟨toNat_indexAfter, _, exec_ldVxMem hcheck', fun r hr => ?_, ?_⟩
  · calc (loadRegs u u.i.toNat (x.val + 1))[r]
      _ = u.readByte (u.i.toNat + r.val) := getElem_loadRegs_of_le _ hr
      _ = (s.writeBytes s.i.toNat (regsUpTo s x)).readByte (s.i.toNat + r.val) := by
        rw [State.readByte, hmem, hi]; rfl
      _ = s.getV r := readByte_writeBytes_regsUpTo hwf _ hr
  · rw [toNat_indexAfter, hi]

end Sys2Proof.Machine
end

section
/-! Jumps, calls and returns, skips, keys and timers (40_flow.md R80 to R88; 44_keypad_timers.md R145 to R151), and the
screen cleared (43_display.md R135). -/

namespace Sys2Proof.Machine

section
variable {s t u : State} {x : RegIdx}

/-! ## Jumps and the stack -/

/-- A PC value in range, or one that may wrap, is not stopped. -/
theorem pcCheck_of_fits {target : Nat} (h : s.cfg.pcOverrun = .wrap ∨ target ≤ 0xFFF) : pcCheck s target = none :=
  (pcCheck_eq_none_iff s target).2 (of_switch_or (by decide) h)

theorem exec_jpV0Addr {nnn : Addr} (h : pcCheck s (nnn.toNat + (s.getV 0).toNat) = none) :
    exec (.jpV0Addr nnn) s = .next (s.setPC (nnn + (s.getV 0).setWidth 12)) :=
  (guarded_eq_next_iff _).2 ⟨h, rfl⟩

/-- An entry is the zero-extended PC, of which a return takes back all 12 bits. -/
theorem setWidth_setWidth_addr (a : Addr) : (a.setWidth 16).setWidth 12 = a := by
  rw [BitVec.setWidth_setWidth_of_le _ (by decide), BitVec.setWidth_eq]

/-! ## Skips -/

section
variable (s : State) (x y : RegIdx) (nn : Byte)

theorem exec_seVxNN : exec (.seVxNN x nn) s = skipIf (s.getV x == nn) s := rfl

theorem exec_sneVxNN : exec (.sneVxNN x nn) s = skipIf (s.getV x != nn) s := rfl

theorem exec_seVxVy : exec (.seVxVy x y) s = skipIf (s.getV x == s.getV y) s := rfl

theorem exec_sneVxVy : exec (.sneVxVy x y) s = skipIf (s.getV x != s.getV y) s := rfl

theorem exec_skpVx : exec (.skpVx x) s = keySkip s x (keyHeld s x) := rfl

theorem exec_sknpVx : exec (.sknpVx x) s = keySkip s x (!keyHeld s x) := rfl

end

theorem beq_iff_toNat_eq (a b : Byte) : (a == b) = true ↔ a.toNat = b.toNat := by
  rw [beq_iff_eq, BitVec.toNat_inj]

theorem bne_iff_toNat_ne (a b : Byte) : (a != b) = true ↔ ¬ a.toNat = b.toNat := by
  rw [bne_iff_ne, ne_eq, BitVec.toNat_inj]

theorem onlyPC_self (s : State) : OnlyPC s s := ⟨fun _ => rfl, fun _ => rfl, rfl⟩

theorem toNat_pc_skip (s : State) : s.skip.pc.toNat = (s.pc.toNat + 2) % 4096 := BitVec.toNat_add s.pc 2

/-- What a skip leaves, by the condition it tests. -/
theorem ite_skip_spec {c : Bool} {p : Prop} [Decidable p] (hcp : c = true ↔ p) :
    OnlyPC s (if c then s.skip else s) ∧
      (if c then s.skip else s).pc.toNat = if p then (s.pc.toNat + 2) % 4096 else s.pc.toNat := by
  by_cases hp : p
  · rw [if_pos (hcp.2 hp), if_pos hp]
    exact ⟨onlyPC_setPC s _, toNat_pc_skip s⟩
  · rw [if_neg (mt hcp.1 hp), if_neg hp]
    exact ⟨onlyPC_self s, rfl⟩

theorem skipIf_spec {c : Bool} {p : Prop} [Decidable p] (hcp : c = true ↔ p)
    (h : s.cfg.pcOverrun = .wrap ∨ s.pc.toNat + 2 ≤ 0xFFF ∨ ¬ p) :
    ∃ t, skipIf c s = .next t ∧ OnlyPC s t ∧ t.pc.toNat = if p then (s.pc.toNat + 2) % 4096 else s.pc.toNat := by
  refine ⟨_, skipIf_eq fun hc hfault => ?_, ite_skip_spec hcp⟩
  exact (of_switch_or (by decide) h hfault).resolve_right (not_not.2 (hcp.1 hc))

/-- A key number in range, or one of which the low 4 bits count, is not stopped. -/
theorem keyCheck_of_fits (h : s.cfg.keyIndex = .low4 ∨ (s.getV x).toNat ≤ 15) : keyCheck s x = none :=
  (keyCheck_eq_none_iff s x).2 (of_switch_or (by decide) h)

theorem keySkip_of_keyCheck {c : Bool} (h : keyCheck s x = none) : keySkip s x c = skipIf c s := by
  rw [keySkip, h]

theorem keyHeld_eq_keyAt {k : Fin 16} (hk : k.val = (s.getV x).toNat % 16) : keyHeld s x = s.keyAt k := by
  have hsel : keySelect (s.getV x) = k := Fin.ext ((keySelect_val _).trans hk.symm)
  rw [keyHeld, hsel]

end

/-- Settles O45: the 12-bit sum wraps. -/
theorem jpV0AddrAddsV0 : Obligations.JpV0AddrAddsV0 := by
  refine fun nnn s hfits => ⟨_, exec_jpV0Addr (pcCheck_of_fits hfits), ?_, onlyPC_setPC s _⟩
  rw [setPC_pc, BitVec.toNat_add, BitVec.toNat_setWidth_of_le (by decide)]

/-- Settles O46: CALL is a push and a jump, or one of the two faults of the stack pointer. -/
theorem callAddrPushes : Obligations.CallAddrPushes := by
  refine fun nnn s => ⟨fun hroom => ⟨_, exec_callAddr nnn hroom, rfl, toNat_sp_pushPC hroom, fun k => ?_,
    fun _ => rfl, fun _ => rfl, rfl⟩, exec_callAddr_full nnn, exec_callAddr_above nnn⟩
  rw [stkAt_setPC, stkAt_pushPC]
  by_cases hk : s.sp.toNat = k.val
  · rw [if_pos hk, if_pos hk.symm, BitVec.toNat_setWidth_of_le (by decide)]
  · rw [if_neg hk, if_neg (Ne.symm hk)]

/-- Settles O47: RET is a pop, or one of the two faults of the stack pointer. -/
theorem retPops : Obligations.RetPops := by
  refine fun s => ⟨fun k hk => ?_, exec_ret_empty, exec_ret_above⟩
  have hpos : 0 < s.sp.toNat := by omega
  refine ⟨_, exec_ret hpos (by omega), ?_, ?_, fun _ => rfl, fun _ => rfl, rfl⟩
  · rw [popPC_pc_eq s k hk, BitVec.toNat_setWidth]
  · have hsp := toNat_sp_popPC hpos
    omega

/-- Settles O48: the entry under the SP a CALL left is the pushed PC. -/
theorem callThenRetRestores : Obligations.CallThenRetRestores := by
  intro nnn s t u hcall hsp hstk
  have hroom := exec_call_eq_next hcall
  obtain rfl := exec_eq_next hcall
  have hspu : u.sp = s.sp + 1 := hsp
  have hdepth : u.sp.toNat = s.sp.toNat + 1 := by rw [hsp]; exact toNat_sp_pushPC hroom
  have hentry : u.stkAt ⟨s.sp.toNat, hroom⟩ = s.pc.setWidth 16 := by
    rw [State.stkAt, hstk]
    exact (stkAt_pushPC s ⟨s.sp.toNat, hroom⟩).trans (if_pos rfl)
  refine ⟨_, exec_ret (by omega) (by omega), ?_, ?_⟩
  · rw [popPC_pc_eq u ⟨s.sp.toNat, hroom⟩ hdepth, hentry, setWidth_setWidth_addr]
  · rw [popPC_sp, hspu, BitVec.add_sub_cancel]

/-- Settles O49: SE and SNE are skips on equality and on its negation. -/
theorem registerSkips : Obligations.RegisterSkips := by
  intro x y nn s hfits
  have hskip : ∀ p : Prop, s.cfg.pcOverrun = .wrap ∨ s.pc.toNat + 2 ≤ 0xFFF ∨ ¬ p :=
    fun _ => hfits.imp_right .inl
  refine ⟨?_, ?_, ?_, ?_⟩
  · rw [exec_seVxNN]
    exact skipIf_spec (beq_iff_toNat_eq _ _) (hskip _)
  · rw [exec_sneVxNN]
    simpa only [ite_not] using skipIf_spec (bne_iff_toNat_ne (s.getV x) nn) (hskip _)
  · rw [exec_seVxVy]
    exact skipIf_spec (beq_iff_toNat_eq _ _) (hskip _)
  · rw [exec_sneVxVy]
    simpa only [ite_not] using skipIf_spec (bne_iff_toNat_ne (s.getV x) (s.getV y)) (hskip _)

/-- Settles O50: a skip whose condition is false is no write. -/
theorem untakenSkipsDoNothing : Obligations.UntakenSkipsDoNothing := by
  refine fun x y nn s => ⟨fun h => ?_, fun h => ?_, fun h => ?_, fun h => ?_⟩
  · rw [exec_seVxNN, beq_false_of_ne h, skipIf_false]
  · rw [exec_sneVxNN, h, bne_self_eq_false, skipIf_false]
  · rw [exec_seVxVy, beq_false_of_ne h, skipIf_false]
  · rw [exec_sneVxVy, h, bne_self_eq_false, skipIf_false]

/-- Settles O51: SKP and SKNP are skips on the latch of the selected key and on its negation. -/
theorem keySkips : Obligations.KeySkips := by
  intro x k s hk hkey
  have hheld := keyHeld_eq_keyAt hk
  have hexec : ∀ c, keySkip s x c = skipIf c s := fun c => keySkip_of_keyCheck (keyCheck_of_fits hkey)
  refine ⟨fun h => ?_, fun h => ?_⟩
  · rw [exec_skpVx, hheld, hexec]
    exact skipIf_spec Iff.rfl (by simpa using h)
  · rw [exec_sknpVx, hheld, hexec]
    have hspec := skipIf_spec (s := s) (c := !s.keyAt k) (p := ¬ s.keyAt k = true) (by simp) (by simpa using h)
    rwa [ite_not] at hspec

/-- Settles O52: LD Vx,K is a write of PC while no key is pressed, and otherwise of V[X]. -/
theorem ldVxKWaitsForKey : Obligations.LdVxKWaitsForKey := by
  refine fun x s => ⟨fun hnone => ⟨_, exec_ldVxK_waiting x hnone, ?_, onlyPC_setPC s _⟩,
    fun k hk hleast => ⟨_, exec_ldVxK_pressed x hk hleast, ?_, onlyRegs_setV s x _⟩⟩
  · rw [setPC_pc]
    bv_omega
  · rw [getV_setV_self, BitVec.toNat_ofNat]
    omega

/-- Settles O54: each access is a write of one register or timer. -/
theorem timerAccess : Obligations.TimerAccess := fun x s =>
  ⟨⟨_, rfl, getV_setV_self s x _, onlyRegs_setV s x _⟩, ⟨_, rfl, setDT_dt s _, getV_setDT s _, readByte_setDT s _, rfl⟩,
    ⟨_, rfl, setST_st s _, getV_setST s _, readByte_setST s _, rfl⟩⟩

/-- Settles O55: every row of the cleared framebuffer is zero. -/
theorem clsClearsDisplay : Obligations.ClsClearsDisplay := by
  refine fun u s => ⟨decodeWord_cls u, _, rfl, fun x _ y hy => ?_, rfl, fun _ => rfl, fun _ => rfl, rfl⟩
  simp [State.pixel, FrameBuf.pixel, hy]

end Sys2Proof.Machine
end

section
/-! The sprite (43_display.md R136 to R138): what folding the bits of a row, and the rows of a sprite, does to the pixels of
the screen and to the collision flag. -/

namespace Sys2Proof.Machine

/-! ## Pixels flipped by a drawing -/

/-- From `acc` to `acc'` exactly the pixels of the screen in `C` were flipped, and the flag was raised if one of them was
lit. -/
def Flips (C : Nat → Nat → Prop) (acc acc' : FrameBuf × Bool) : Prop :=
  (∀ i < 64, ∀ j < 32, FrameBuf.pixel acc'.1 i j = true ↔ ¬ (FrameBuf.pixel acc.1 i j = true ↔ C i j)) ∧
  (acc'.2 = true ↔ acc.2 = true ∨ ∃ i < 64, ∃ j < 32, FrameBuf.pixel acc.1 i j = true ∧ C i j)

section
variable {C D : Nat → Nat → Prop} {a b c : FrameBuf × Bool}

theorem flips_congr (h : ∀ i < 64, ∀ j < 32, C i j ↔ D i j) (hab : Flips C a b) : Flips D a b := by
  obtain ⟨hpix, hflag⟩ := hab
  refine ⟨fun i hi j hj => by rw [hpix i hi j hj, h i hi j hj], hflag.trans (or_congr_right ?_)⟩
  constructor
  · rintro ⟨i, hi, j, hj, hlit, hC⟩
    exact ⟨i, hi, j, hj, hlit, (h i hi j hj).1 hC⟩
  · rintro ⟨i, hi, j, hj, hlit, hD⟩
    exact ⟨i, hi, j, hj, hlit, (h i hi j hj).2 hD⟩

theorem flips_refl (a : FrameBuf × Bool) : Flips (fun _ _ => False) a a := by
  simp [Flips]

/-- Two drawings that share no pixel flip the pixels of both: the second finds its own as the first found them. -/
theorem flips_trans (hab : Flips C a b) (hbc : Flips D b c) (hdisj : ∀ i j, C i j → ¬ D i j) :
    Flips (fun i j => C i j ∨ D i j) a c := by
  obtain ⟨hpix, hflag⟩ := hab
  obtain ⟨hpix', hflag'⟩ := hbc
  refine ⟨fun i hi j hj => ?_, ?_⟩
  · rw [hpix' i hi j hj, hpix i hi j hj]
    by_cases hC : C i j
    · simp [hC, hdisj i j hC]
    · simp [hC]
  · have hkept : ∀ i < 64, ∀ j < 32, D i j → (FrameBuf.pixel b.1 i j = true ↔ FrameBuf.pixel a.1 i j = true) := by
      intro i hi j hj hD
      have hnot : ¬ C i j := fun hC => hdisj i j hC hD
      rw [hpix i hi j hj]
      simp [hnot]
    rw [hflag', hflag, or_assoc]
    refine or_congr_right ?_
    constructor
    · rintro (⟨i, hi, j, hj, hlit, hC⟩ | ⟨i, hi, j, hj, hlit, hD⟩)
      · exact ⟨i, hi, j, hj, hlit, .inl hC⟩
      · exact ⟨i, hi, j, hj, (hkept i hi j hj hD).1 hlit, .inr hD⟩
    · rintro ⟨i, hi, j, hj, hlit, hC | hD⟩
      · exact .inl ⟨i, hi, j, hj, hlit, hC⟩
      · exact .inr ⟨i, hi, j, hj, (hkept i hi j hj hD).2 hlit, hD⟩

end

/-- Drawing `n` parts in order, no two of which share a pixel, flips the pixels of all of them. -/
theorem flips_foldl_range {f : FrameBuf × Bool → Nat → FrameBuf × Bool} {C : Nat → Nat → Nat → Prop}
    (hf : ∀ acc k, Flips (C k) acc (f acc k)) (hdisj : ∀ k l i j, C k i j → C l i j → k = l) (n : Nat)
    (acc : FrameBuf × Bool) : Flips (fun i j => ∃ k < n, C k i j) acc ((List.range n).foldl f acc) := by
  induction n with
  | zero => exact flips_congr (by simp) (flips_refl acc)
  | succ n ih =>
    rw [List.range_succ, List.foldl_append]
    refine flips_congr (fun i _ j _ => ?_) (flips_trans ih (hf _ n) ?_)
    · rw [Nat.exists_lt_succ_right]
    · rintro i j ⟨k, hk, hC⟩ hn
      exact absurd (hdisj k n i j hC hn) (Nat.ne_of_lt hk)

theorem flagByte_eq_one_iff (c : Bool) : flagByte c = 1 ↔ c = true := by
  cases c <;> decide

theorem flagByte_eq_zero_iff (c : Bool) : flagByte c = 0 ↔ c = false := by
  cases c <;> decide

/-! ## Bits, rows, sprites -/

theorem flips_drawBit (b : Byte) (x0 y : Nat) (acc : FrameBuf × Bool) (c : Nat) :
    Flips (fun i j => spriteBit b c = true ∧ i = x0 + c ∧ j = y) acc (drawBit b x0 y acc c) := by
  rw [drawBit_eq]
  split
  next h =>
    obtain ⟨hset, hx, hy⟩ := h
    refine ⟨fun i _ j _ => ?_, ?_⟩
    · rw [pixel_flip _ _ _ _ _ (by omega) (by omega)]
      by_cases hij : i = x0 + c ∧ j = y <;> simp [hset, hij]
    · rw [Bool.or_eq_true]
      refine or_congr_right ⟨fun hlit => ⟨x0 + c, by omega, y, by omega, hlit, hset, rfl, rfl⟩, ?_⟩
      rintro ⟨_, _, _, _, hlit, _, rfl, rfl⟩
      exact hlit
  next h =>
    refine flips_congr (fun i hi j hj => ?_) (flips_refl acc)
    rw [false_iff]
    rintro ⟨hset, rfl, rfl⟩
    exact h ⟨hset, by omega, by omega⟩

theorem flips_drawRow (s : State) (x0 y0 : Nat) (acc : FrameBuf × Bool) (r : Nat) :
    Flips (fun i j => ∃ c < 8, spriteBit (s.readByte (s.i.toNat + r)) c = true ∧ i = x0 + c ∧ j = y0 + r) acc
      (drawRow s x0 y0 acc r) :=
  flips_foldl_range (flips_drawBit _ x0 (y0 + r)) (fun k l i j hk hl => by omega) 8 acc

/-- The pixels a sprite covers, as its rows and bits name them. -/
theorem spriteCovers_iff (s : State) (x0 y0 n i j : Nat) : SpriteCovers s x0 y0 n i j ↔
    ∃ r < n, ∃ c < 8, spriteBit (s.readByte (s.i.toNat + r)) c = true ∧ i = x0 + c ∧ j = y0 + r := by
  constructor
  · rintro ⟨hx, hx8, hy, hyn, hset⟩
    exact ⟨j - y0, by omega, i - x0, by omega, hset, by omega, by omega⟩
  · rintro ⟨r, hr, c, hc, hset, rfl, rfl⟩
    refine ⟨by omega, by omega, by omega, by omega, ?_⟩
    rwa [Nat.add_sub_cancel_left, Nat.add_sub_cancel_left]

/-- A sprite flips the pixels of the screen it covers, and its flag is whether it covers a lit one. -/
theorem flips_drawSprite (s : State) (x0 y0 n : Nat) :
    Flips (SpriteCovers s x0 y0 n) (s.fb, false) (drawSprite s x0 y0 n) := by
  refine flips_congr (fun i _ j _ => (spriteCovers_iff s x0 y0 n i j).symm)
    (flips_foldl_range (flips_drawRow s x0 y0) ?_ n _)
  rintro k l i j ⟨_, _, _, _, hk⟩ ⟨_, _, _, _, hl⟩
  omega

section
variable (s : State) (x y : RegIdx) (n : Nat)

/-- The pixels after DRW. -/
theorem pixel_drawn {i j : Nat} (hi : i < 64) (hj : j < 32) : (drawn s x y n).pixel i j = true ↔
    ¬ (s.pixel i j = true ↔ SpriteCovers s (s.getV x).toNat (s.getV y).toNat n i j) :=
  (flips_drawSprite s _ _ n).1 i hi j hj

/-- VF after DRW is 1 exactly when the sprite covers a lit pixel. -/
theorem getV_drawn_VF_eq_one_iff : (drawn s x y n).getV VF = 1 ↔ ∃ i < 64, ∃ j < 32,
    s.pixel i j = true ∧ SpriteCovers s (s.getV x).toNat (s.getV y).toNat n i j := by
  rw [getV_drawn, if_pos rfl, flagByte_eq_one_iff, (flips_drawSprite s _ _ n).2]
  simp [State.pixel]

theorem getV_drawn_VF_eq_zero_iff : (drawn s x y n).getV VF = 0 ↔ ¬ ∃ i < 64, ∃ j < 32,
    s.pixel i j = true ∧ SpriteCovers s (s.getV x).toNat (s.getV y).toNat n i j := by
  rw [← getV_drawn_VF_eq_one_iff, getV_drawn, if_pos rfl, flagByte_eq_one_iff, flagByte_eq_zero_iff,
    Bool.not_eq_true]

/-- DRW writes VF alone of the registers, the framebuffer and DF. -/
theorem sameRegsBut_drawn : SameRegsBut [VF] s (drawn s x y n) := fun r hr => by
  rw [getV_drawn, if_neg (List.ne_of_not_mem_cons hr)]

end

/-! ## The strict checks -/

theorem rowOffscreen_iff (s : State) (x0 y0 r : Nat) : rowOffscreen s x0 y0 r = true ↔
    ∃ c < 8, spriteBit (s.readByte (s.i.toNat + r)) c = true ∧ ¬ (x0 + c < 64 ∧ y0 + r < 32) := by
  have hoff : ∀ i j, onScreen i j = false ↔ ¬ (i < 64 ∧ j < 32) := by
    intro i j
    simp only [onScreen, Bool.and_eq_false_iff, decide_eq_false_iff_not]
    omega
  simp [rowOffscreen, hoff]

/-- A row of the sprite has a bit off the screen exactly when the sprite covers a position off the screen. -/
theorem exists_rowOffscreen_iff (s : State) (x0 y0 n : Nat) : (∃ r < n, rowOffscreen s x0 y0 r = true) ↔
    ∃ i j, SpriteCovers s x0 y0 n i j ∧ ¬ (i < 64 ∧ j < 32) := by
  simp only [rowOffscreen_iff, spriteCovers_iff]
  constructor
  · rintro ⟨r, hr, c, hc, hset, hoff⟩
    exact ⟨x0 + c, y0 + r, ⟨r, hr, c, hc, hset, rfl, rfl⟩, hoff⟩
  · rintro ⟨_, _, ⟨r, hr, c, hc, hset, rfl, rfl⟩, hoff⟩
    exact ⟨r, hr, c, hc, hset, hoff⟩

section
variable {s : State} {x y : RegIdx} {x0 y0 r n : Nat} {f : Fault}

theorem drawRowCheck_eq_none_iff : drawRowCheck s x0 y0 r = none ↔
    (s.cfg.addrOverrun = .fault → s.i.toNat + r ≤ 0xFFF) ∧
    (s.cfg.drwOffscreen = .fault → rowOffscreen s x0 y0 r = false) := by
  have hmem := memoryCheck_eq_none_iff s (s.i.toNat + r) 1
  unfold drawRowCheck
  split
  next heq => simp_all
  next heq => rw [heq] at hmem; simp_all

theorem memoryCheck_eq_some {a n : Nat} (h : memoryCheck s a n = some f) :
    s.cfg.addrOverrun = .fault ∧ f = faultHere s .memoryOverrun := by
  unfold memoryCheck at h
  split at h
  next hcond => exact ⟨hcond.1, (Option.some.inj h).symm⟩
  next => nomatch h

/-- All a row's check can fault with, and the switch that makes it. -/
theorem drawRowCheck_eq_some (h : drawRowCheck s x0 y0 r = some f) :
    (s.cfg.addrOverrun = .fault ∧ f = faultHere s .memoryOverrun) ∨
    (s.cfg.drwOffscreen = .fault ∧ f = faultHere s .drawOutOfRange) := by
  unfold drawRowCheck at h
  split at h
  next hmem => exact .inl (memoryCheck_eq_some (hmem.trans h))
  next =>
    split at h
    next hcond => exact .inr ⟨hcond.1, (Option.some.inj h).symm⟩
    next => nomatch h

/-- DRW passes its checks when no row is read above 0xFFF and no bit lies off the screen, as far as the switches ask. -/
theorem drawCheck_eq_none_iff : drawCheck s x0 y0 n = none ↔
    (s.cfg.addrOverrun = .fault → n ≠ 0 → s.i.toNat + n ≤ 0x1000) ∧
    (s.cfg.drwOffscreen = .fault → ∀ i j, SpriteCovers s x0 y0 n i j → i < 64 ∧ j < 32) := by
  have hoff : (∀ r < n, rowOffscreen s x0 y0 r = false) ↔ ∀ i j, SpriteCovers s x0 y0 n i j → i < 64 ∧ j < 32 := by
    simpa using not_congr (exists_rowOffscreen_iff s x0 y0 n)
  simp only [drawCheck, List.findSome?_eq_none_iff, List.mem_range, drawRowCheck_eq_none_iff]
  constructor
  · intro h
    refine ⟨fun haddr hn => ?_, fun hscreen => hoff.1 fun r hr => (h r hr).2 hscreen⟩
    have hlast := (h (n - 1) (by omega)).1 haddr
    omega
  · rintro ⟨hmem, hscreen⟩ r hr
    refine ⟨fun haddr => ?_, fun hstrict => hoff.2 (hscreen hstrict) r hr⟩
    have hfits := hmem haddr (by omega)
    omega

/-- DRW that is not refused is its checks and its drawing. -/
theorem exec_drwVxVyN {n : Fin 16} (h : s.cfg.drwVfCoord = .readFirst ∨ (x ≠ VF ∧ y ≠ VF)) :
    exec (.drwVxVyN x y n) s =
      guarded (drawCheck s (s.getV x).toNat (s.getV y).toNat n.val) (drawn s x y n.val) := by
  refine if_neg ?_
  rcases h with hfirst | ⟨hx, hy⟩
  · simp [hfirst]
  · simp [hx.symm, hy.symm]

/-- A DRW that does not pass its checks faults, under a switch that makes it. -/
theorem exec_drwVxVyN_fault {n : Fin 16} (h : s.cfg.drwVfCoord = .readFirst ∨ (x ≠ VF ∧ y ≠ VF))
    (hcheck : drawCheck s (s.getV x).toNat (s.getV y).toNat n.val ≠ none) :
    (s.cfg.addrOverrun = .fault ∧ exec (.drwVxVyN x y n) s = .fault (faultHere s .memoryOverrun)) ∨
    (s.cfg.drwOffscreen = .fault ∧ exec (.drwVxVyN x y n) s = .fault (faultHere s .drawOutOfRange)) := by
  obtain ⟨f, hf⟩ := Option.ne_none_iff_exists'.1 hcheck
  rw [exec_drwVxVyN h, hf, guarded_some]
  obtain ⟨r, -, hrow⟩ := List.exists_of_findSome?_eq_some hf
  rcases drawRowCheck_eq_some hrow with ⟨hswitch, rfl⟩ | ⟨hswitch, rfl⟩
  · exact .inl ⟨hswitch, rfl⟩
  · exact .inr ⟨hswitch, rfl⟩

end

/-- Settles O56: the bits of the sprite flip one pixel each, no two the same. -/
theorem drwXorsSprite : Obligations.DrwXorsSprite := by
  intro x y n s hcoord haddr hscreen
  have hcheck : drawCheck s (s.getV x).toNat (s.getV y).toNat n.val = none := by
    refine drawCheck_eq_none_iff.2 ⟨fun hfault hn => ?_, of_switch_or (by decide) hscreen⟩
    exact (of_switch_or (by decide) haddr hfault).resolve_right fun hzero => hn (congrArg Fin.val hzero)
  exact ⟨_, (exec_drwVxVyN hcoord).trans ((guarded_eq_next_iff _).2 ⟨hcheck, rfl⟩),
    fun i hi j hj => pixel_drawn s x y n.val hi hj, (getV_drawn_VF_eq_one_iff s x y n.val).2,
    (getV_drawn_VF_eq_zero_iff s x y n.val).2, rfl, sameRegsBut_drawn s x y n.val, readByte_drawn s x y n.val, rfl⟩

/-- Settles O57: the second sprite covers what the first did, so it flips the same pixels back. -/
theorem drwTwiceRestores : Obligations.DrwTwiceRestores := by
  intro x y n s t u hx hy hfirst hsecond
  obtain rfl := exec_eq_next hfirst
  obtain rfl := exec_eq_next hsecond
  have hsame := sameRegsBut_drawn s x y n.val
  have hcovers : ∀ i j,
      SpriteCovers (drawn s x y n.val) ((drawn s x y n.val).getV x).toNat ((drawn s x y n.val).getV y).toNat n.val i j ↔
      SpriteCovers s (s.getV x).toNat (s.getV y).toNat n.val i j := by
    intro i j
    rw [hsame x (by simpa using hx), hsame y (by simpa using hy)]
    rfl
  refine ⟨fun i hi j hj => ?_, ?_⟩
  · have hpix := pixel_drawn (drawn s x y n.val) x y n.val hi hj
    rw [hcovers, pixel_drawn s x y n.val hi hj] at hpix
    exact Bool.eq_iff_iff.2 (by tauto)
  · refine (getV_drawn_VF_eq_one_iff (drawn s x y n.val) x y n.val).trans ?_
    simp only [hcovers]
    constructor
    · rintro ⟨i, hi, j, hj, hlit, hC⟩
      have hpix := (pixel_drawn s x y n.val hi hj).1 hlit
      exact ⟨i, hi, j, hj, Bool.eq_false_iff.2 (by tauto), hC⟩
    · rintro ⟨i, hi, j, hj, hoff, hC⟩
      refine ⟨i, hi, j, hj, (pixel_drawn s x y n.val hi hj).2 ?_, hC⟩
      simp [hoff, hC]

end Sys2Proof.Machine
end

section
/-! The strictness switches at their strict values (00_scope.md R6; 93_implementation_defined.md U2 to U9): which check
stops which instruction or cycle. -/

namespace Sys2Proof.Machine

section
variable {s : State} {x y : RegIdx}

/-! ## The checks that stop -/

theorem memoryCheck_overrun {a n : Nat} (h : s.cfg.addrOverrun = .fault) (hn : 0 < n) (ha : 0xFFF < a + (n - 1)) :
    memoryCheck s a n = some (faultHere s .memoryOverrun) := if_pos ⟨h, hn, ha⟩

theorem pcCheck_overrun {target : Nat} (h : s.cfg.pcOverrun = .fault) (ht : 0xFFF < target) :
    pcCheck s target = some (faultHere s .pcOutOfRange) := if_pos ⟨h, ht⟩

theorem keyCheck_overrun (h : s.cfg.keyIndex = .fault) (hx : 15 < (s.getV x).toNat) :
    keyCheck s x = some (faultHere s .keyOutOfRange) := if_pos ⟨h, hx⟩

/-- A key skip on a key number above 15 faults, whatever its condition. -/
theorem keySkip_overrun (h : s.cfg.keyIndex = .fault) (hx : 15 < (s.getV x).toNat) (c : Bool) :
    keySkip s x c = .fault (faultHere s .keyOutOfRange) := by
  rw [keySkip, keyCheck_overrun h hx]

/-- A taken skip past 0xFFF faults. -/
theorem skipIf_overrun {c : Bool} (h : s.cfg.pcOverrun = .fault) (hpc : 0xFFF < s.pc.toNat + 2) (hc : c = true) :
    skipIf c s = .fault (faultHere s .pcOutOfRange) := by
  rw [hc, skipIf_true, pcCheck_overrun h hpc, guarded_some]

theorem flagOp_refused {ops : List RegIdx} {f : Byte} {res : State → Byte} (h : s.cfg.vfAlias = .refuse)
    (hVF : VF ∈ ops) : flagOp s ops x f res = .refused .vfAlias :=
  if_pos (by simp [vfAliasRefused, h, hVF])

/-! ## The checks of the cycle -/

theorem fetchCheck_fetchOverrun (h : s.cfg.addrOverrun = .fault) (hpc : 0xFFF < s.pc.toNat + 1) :
    fetchCheck s = some (.fetchOverrun s.pc) := if_pos ⟨h, hpc⟩

theorem fetchCheck_of_fetch_fits (h : s.cfg.addrOverrun = .wrap ∨ s.pc.toNat + 1 ≤ 0xFFF) : fetchCheck s =
    if s.cfg.pcOverrun = .fault ∧ 0xFFF < s.pc.toNat + 2 then some (.pcOutOfRange s.pc (fetchOpcode s)) else none := by
  refine if_neg fun ⟨hfault, hover⟩ => ?_
  have hfits := of_switch_or (by decide) h hfault
  omega

theorem step_of_fetchCheck {f : Fault} (h : fetchCheck s = some f) : step s = .fault f := by
  rw [step, h]

theorem step_nonCanonical (hfetch : fetchCheck s = none) (h : s.cfg.nonCanonical = .refuse)
    (hword : canonical (fetchOpcode s) = false) : step s = .refused .nonCanonical := by
  have hdecode : decodeCheck s = some .nonCanonical := if_pos (by simp [h, hword])
  rw [step, hfetch, hdecode]

end

/-- Settles O58: an access above 0xFFF or a bit off the screen fails a check, and which faults there can be is the
switches'. -/
theorem strictMemoryAndScreenFault : Obligations.StrictMemoryAndScreenFault := by
  intro x y n s
  refine ⟨fun haddr => ⟨fun hi => ?_, fun hi => ⟨?_, ?_⟩, fun hclip hcoord hn hi => ?_, fun hpc => ?_⟩,
    fun hoff hwrap hcoord hcovers => ?_, fun hoff haddr hcoord hover => ?_⟩
  · exact (guarded_eq_fault_iff _).2 (memoryCheck_overrun haddr (by decide) hi)
  · exact (guarded_eq_fault_iff _).2 (memoryCheck_overrun haddr (Nat.succ_pos _) hi)
  · exact (guarded_eq_fault_iff _).2 (memoryCheck_overrun haddr (Nat.succ_pos _) hi)
  · have hcheck : drawCheck s (s.getV x).toNat (s.getV y).toNat n.val ≠ none := fun hnone => by
      have hfits := (drawCheck_eq_none_iff.1 hnone).1 haddr (Fin.val_ne_of_ne hn)
      omega
    exact ((exec_drwVxVyN_fault hcoord hcheck).resolve_right
      fun ⟨hstrict, _⟩ => absurd (hclip.symm.trans hstrict) (by decide)).2
  · exact step_of_fetchCheck (fetchCheck_fetchOverrun haddr (by rw [hpc]; decide))
  · have hcheck : drawCheck s (s.getV x).toNat (s.getV y).toNat n.val ≠ none := fun hnone => by
      obtain ⟨i, j, hC, hout⟩ := hcovers
      exact hout ((drawCheck_eq_none_iff.1 hnone).2 hoff i j hC)
    exact ((exec_drwVxVyN_fault hcoord hcheck).resolve_left
      fun ⟨hstrict, _⟩ => absurd (hwrap.symm.trans hstrict) (by decide)).2
  · have hcheck : drawCheck s (s.getV x).toNat (s.getV y).toNat n.val ≠ none := fun hnone => by
      obtain ⟨hmem, hscreen⟩ := drawCheck_eq_none_iff.1 hnone
      rcases hover with ⟨hn, hi⟩ | ⟨i, j, hC, hout⟩
      · have hfits := hmem haddr (Fin.val_ne_of_ne hn)
        omega
      · exact hout (hscreen hoff i j hC)
    exact (exec_drwVxVyN_fault hcoord hcheck).imp And.right And.right

/-- Settles O59: each key number and each PC value above its bound fails the check of the operation that uses it. -/
theorem strictKeyAndPcFault : Obligations.StrictKeyAndPcFault := by
  intro x y nn k nnn s
  refine ⟨fun hkey hx => ⟨keySkip_overrun hkey hx _, keySkip_overrun hkey hx _⟩, fun hover =>
    ⟨fun hpc => ⟨fun h => ?_, fun h => ?_, fun h => ?_, fun h => ?_, fun hk hkey => ⟨fun h => ?_, fun h => ?_⟩⟩,
      fun hsum => (guarded_eq_fault_iff _).2 (pcCheck_overrun hover hsum), fun haddr hpc => ?_⟩⟩
  · exact skipIf_overrun hover hpc (beq_iff_eq.2 h)
  · exact skipIf_overrun hover hpc (bne_iff_ne.2 h)
  · exact skipIf_overrun hover hpc (beq_iff_eq.2 h)
  · exact skipIf_overrun hover hpc (bne_iff_ne.2 h)
  · rw [exec_skpVx, keySkip_of_keyCheck (keyCheck_of_fits hkey), keyHeld_eq_keyAt hk]
    exact skipIf_overrun hover hpc h
  · rw [exec_sknpVx, keySkip_of_keyCheck (keyCheck_of_fits hkey), keyHeld_eq_keyAt hk]
    exact skipIf_overrun hover hpc (by rw [h]; rfl)
  · exact step_of_fetchCheck ((fetchCheck_of_fetch_fits haddr).trans (if_pos ⟨hover, hpc⟩))

/-- Settles O60: VF among the operands, VF as a coordinate, and a non-canonical word fail the checks that refuse them. -/
theorem strictAliasesRefused : Obligations.StrictAliasesRefused := by
  intro x y n s
  have hpair : x = VF ∨ y = VF → VF ∈ [x, y] := by
    rintro (rfl | rfl) <;> simp
  refine ⟨fun halias => ⟨fun hVF => ⟨?_, ?_, ?_⟩, fun hVF => ⟨?_, ?_⟩⟩, fun hcoord hVF => ?_,
    fun hrefuse haddr hover hword => ?_⟩
  · exact flagOp_refused halias (hpair hVF)
  · exact flagOp_refused halias (hpair hVF)
  · exact flagOp_refused halias (hpair hVF)
  · exact flagOp_refused halias (List.mem_singleton.2 hVF.symm)
  · exact flagOp_refused halias (List.mem_singleton.2 hVF.symm)
  · exact if_pos (by simpa [hcoord] using hpair hVF)
  · refine step_nonCanonical ((fetchCheck_of_fetch_fits haddr).trans (if_neg fun ⟨hfault, hpc⟩ => ?_)) hrefuse hword
    have hfits := of_switch_or (by decide) hover hfault
    omega

end Sys2Proof.Machine
end
